-- ==== Sys2Proof/Word.lean ====
section
/-! DEFINITION. The words that move on the ports of base85rs CORE (spec 30_encoding.md R48, R50, R55), the ports
themselves, and an offer: what a host agent puts on one port (00_scope.md R13, 43_stream_control.md R107). -/

namespace Sys2Proof

/-- A byte of the encoder's input or the decoder's output, or a symbol (00_scope.md R7). -/
abbrev Byte := BitVec 8

/-- A base-85 digit field, 7 bits (00_scope.md R7, 92_eei_decisions.md D15). -/
abbrev Digit := BitVec 7

/-- A word of `enc_in` or `dec_in` (30_encoding.md R50). -/
abbrev InWord := BitVec 9

/-- A word of `enc_out` or `dec_out` (30_encoding.md R55). -/
abbrev OutWord := BitVec 11

/-- A chunk value or an accumulator, 32 bits (10_state.md R18, R21). -/
abbrev Chunk := BitVec 32

/-- The 33-bit result of a fold step (42_decoder.md R88). -/
abbrev Fold := BitVec 33

/-- The ports an operation may stand on (30_encoding.md R62, column "port"). -/
inductive Port where
  | encIn
  | decIn
  | lutFwdIdx
  | lutRevSym
  | encOut
  | decOut
  | rst
  deriving DecidableEq, Repr

/-- What a host agent offers on one port: a word on an input port, readiness on an output port, or `rst = 1` for one
rising edge (43_stream_control.md R107). The word's width is the port's (30_encoding.md R48). -/
inductive Offer where
  | encIn (w : InWord)
  | decIn (w : InWord)
  | lutFwdIdx (v : Digit)
  | lutRevSym (c : Byte)
  | encOut
  | decOut
  | rst
  deriving DecidableEq, Repr

/-- The port an offer stands on. -/
def Offer.port : Offer → Port
  | .encIn _ => .encIn
  | .decIn _ => .decIn
  | .lutFwdIdx _ => .lutFwdIdx
  | .lutRevSym _ => .lutRevSym
  | .encOut => .encOut
  | .decOut => .decOut
  | .rst => .rst

/-- The bits an offer puts on its port, as a number: pops carry no word, and `rst` is the pin at 1
(30_encoding.md R62). -/
def Offer.bits : Offer → Nat
  | .encIn w => w.toNat
  | .decIn w => w.toNat
  | .lutFwdIdx v => v.toNat
  | .lutRevSym c => c.toNat
  | .encOut => 0
  | .decOut => 0
  | .rst => 1

end Sys2Proof
end

