-- ==== Sys2Proof/Syntax.lean ====
section
/-! DEFINITION. The operations of base85rs CORE, one constructor per row of spec/opcode_table.json
(30_encoding.md R62). -/

namespace Sys2Proof

/-- The ten operations. A reserved field is kept, so that no bit of a word is dropped (30_encoding.md R53). -/
inductive Instr where
  /-- ENC.DATA, byte `d` (41_encoder.md R75). -/
  | encData (d : Byte)
  /-- ENC.END, reserved field `r` (41_encoder.md R76). -/
  | encEnd (r : Byte)
  /-- DEC.SPACE (42_decoder.md R89). -/
  | decSpace
  /-- DEC.DATA, symbol byte `s`, never 0x20 (42_decoder.md R90, R91). -/
  | decData (s : Byte)
  /-- DEC.END, reserved field `r` (42_decoder.md R92). -/
  | decEnd (r : Byte)
  /-- LUT.FWD, index `v` (40_alphabet_lut.md R70). -/
  | lutFwd (v : Digit)
  /-- LUT.REV, byte `c` (40_alphabet_lut.md R71). -/
  | lutRev (c : Byte)
  /-- ENC.POP (43_stream_control.md R102). -/
  | encPop
  /-- DEC.POP (43_stream_control.md R103). -/
  | decPop
  /-- RST (70_reset_and_hazards.md R122). -/
  | rst
  deriving DecidableEq, Repr

end Sys2Proof
end

