-- ==== Sys2Proof/WellFormed.lean ====
section
/-! DEFINITION. Which terms of `Instr` some word or handshake stands for. The one check: DEC.DATA's symbol byte is not
0x20, since the word 0x020 on `dec_in` is DEC.SPACE (spec 30_encoding.md R54, R62, R65). -/

namespace Sys2Proof

/-- The check, as a Bool: DEC.DATA excludes 0x20; every other operand is legal at every value (30_encoding.md R63;
log entry 9). -/
def Instr.wf : Instr → Bool
  | .encData _ => true
  | .encEnd _ => true
  | .decSpace => true
  | .decData s => s != 0x20#8
  | .decEnd _ => true
  | .lutFwd _ => true
  | .lutRev _ => true
  | .encPop => true
  | .decPop => true
  | .rst => true

/-- Well-formed instructions. -/
abbrev Instr.WellFormed (i : Instr) : Prop := i.wf = true

end Sys2Proof
end

