-- ==== Sys2Proof/Decode.lean ====
section
/-! DEFINITION. Decoding an offer on a port into its operation (spec 30_encoding.md R50, R54, R62), the encoder, the
opcode table, and the host's two bit-level entries. Decoding an offer is total; bits that no port can carry are
rejected by name. -/

namespace Sys2Proof

/-- Bit 8 of an input word: the beat kind `K`, true for END (30_encoding.md R50). -/
def inKind (w : InWord) : Bool := w.getLsbD 8

/-- Bits 7..0 of an input word: the field `D` (30_encoding.md R50). -/
def inData (w : InWord) : Byte := w.extractLsb' 0 8

/-- The input word with kind `k` and data `d` (30_encoding.md R50). -/
def inWord (k : Bool) (d : Byte) : InWord := BitVec.ofBool k ++ d

/-- The encoder's reading of an input word (30_encoding.md R54). -/
def decodeEncIn (w : InWord) : Instr :=
  if inKind w then .encEnd (inData w) else .encData (inData w)

/-- The decoder's reading of an input word: the first of three rows that matches (30_encoding.md R54). -/
def decodeDecIn (w : InWord) : Instr :=
  if inKind w then .decEnd (inData w)
  else if inData w = 0x20#8 then .decSpace
  else .decData (inData w)

/-- The operation an offer stands for. The port selects the family (30_encoding.md R62). -/
def decode : Offer → Instr
  | .encIn w => decodeEncIn w
  | .decIn w => decodeDecIn w
  | .lutFwdIdx v => .lutFwd v
  | .lutRevSym c => .lutRev c
  | .encOut => .encPop
  | .decOut => .decPop
  | .rst => .rst

/-- The offer an operation is made by (30_encoding.md R62, R65). -/
def encode : Instr → Offer
  | .encData d => .encIn (inWord false d)
  | .encEnd r => .encIn (inWord true r)
  | .decSpace => .decIn (inWord false 0x20#8)
  | .decData s => .decIn (inWord false s)
  | .decEnd r => .decIn (inWord true r)
  | .lutFwd v => .lutFwdIdx v
  | .lutRev c => .lutRevSym c
  | .encPop => .encOut
  | .decPop => .decOut
  | .rst => .rst

/-! ## The opcode table of 30_encoding.md R62 -/

/-- A row of the opcode table: the port, the mask and the value it is compared with, and the words an earlier row
takes. Pops have no word: mask and value 0. -/
structure OpcodeRow where
  mnemonic : String
  port : Port
  mask : Nat
  value : Nat
  exclude : List Nat
  deriving DecidableEq, Repr

/-- Whether a row selects an offer: same port, the masked bits equal the value, not excluded (30_encoding.md R62). -/
def OpcodeRow.selects (r : OpcodeRow) (o : Offer) : Bool :=
  r.port == o.port && (o.bits &&& r.mask) == r.value && !(r.exclude.contains o.bits)

/-- The row of an operation (30_encoding.md R62). -/
def opcodeRow : Instr → OpcodeRow
  | .encData _ => ⟨"ENC.DATA", .encIn, 0x100, 0x000, []⟩
  | .encEnd _ => ⟨"ENC.END", .encIn, 0x100, 0x100, []⟩
  | .decSpace => ⟨"DEC.SPACE", .decIn, 0x1FF, 0x020, []⟩
  | .decData _ => ⟨"DEC.DATA", .decIn, 0x100, 0x000, [0x020]⟩
  | .decEnd _ => ⟨"DEC.END", .decIn, 0x100, 0x100, []⟩
  | .lutFwd _ => ⟨"LUT.FWD", .lutFwdIdx, 0x00, 0x00, []⟩
  | .lutRev _ => ⟨"LUT.REV", .lutRevSym, 0x00, 0x00, []⟩
  | .encPop => ⟨"ENC.POP", .encOut, 0x00, 0x00, []⟩
  | .decPop => ⟨"DEC.POP", .decOut, 0x00, 0x00, []⟩
  | .rst => ⟨"RST", .rst, 0x1, 0x1, []⟩

/-- The whole table, in the order of 30_encoding.md R62; a row does not depend on its operand. -/
def opcodeTable : List OpcodeRow :=
  [.encData 0, .encEnd 0, .decSpace, .decData 0, .decEnd 0, .lutFwd 0, .lutRev 0, .encPop, .decPop, .rst].map opcodeRow

/-! ## Bits on a port -/

/-- Why bits do not decode: the word is wider than the port, or the `rst` pin is low, which is no operation. -/
inductive DecodeError where
  | wordTooWide
  | rstLow
  deriving DecidableEq, Repr

/-- The offer that the number `w` on the wires of port `p` is (port widths: 30_encoding.md R48). -/
def offerOfBits (p : Port) (w : Nat) : Except DecodeError Offer :=
  match p with
  | .encIn => if w < 2 ^ 9 then .ok (.encIn (BitVec.ofNat 9 w)) else .error .wordTooWide
  | .decIn => if w < 2 ^ 9 then .ok (.decIn (BitVec.ofNat 9 w)) else .error .wordTooWide
  | .lutFwdIdx => if w < 2 ^ 7 then .ok (.lutFwdIdx (BitVec.ofNat 7 w)) else .error .wordTooWide
  | .lutRevSym => if w < 2 ^ 8 then .ok (.lutRevSym (BitVec.ofNat 8 w)) else .error .wordTooWide
  | .encOut => if w = 0 then .ok .encOut else .error .wordTooWide
  | .decOut => if w = 0 then .ok .decOut else .error .wordTooWide
  | .rst => if w = 1 then .ok .rst else if w = 0 then .error .rstLow else .error .wordTooWide

/-- Decoding bits on a port: total, rejecting by name. -/
def decodeBits (p : Port) (w : Nat) : Except DecodeError Instr := (offerOfBits p w).map decode

/-- DESIGN CHOICE (log entry 8): the port a table word is laid on when only its width is known. The opcode table's
words do not carry their port: the 9-bit words stand on both `enc_in` and `dec_in`, the 8-bit ones on three ports.
Nine-bit words are laid on `dec_in`; of the narrow ports, the narrowest that takes the word as an operation. -/
def tablePort (nbits w : Nat) : Option Port :=
  match nbits with
  | 0 => some .encOut
  | 1 => some .rst
  | 7 => some .lutFwdIdx
  | 8 => if w = 1 then some .rst else if w < 2 ^ 7 then some .lutFwdIdx else some .lutRevSym
  | 9 => some .decIn
  | 16 => some .decIn
  | _ => none

/-- The offer a table word is (log entry 8). -/
def tableOffer (nbits w : Nat) : Option Offer :=
  match tablePort nbits w with
  | none => none
  | some p => (offerOfBits p w).toOption

/-- The instruction the decoder reads from a table word (log entry 8). -/
def decodeTableWord (nbits w : Nat) : Option Instr := (tableOffer nbits w).map decode

end Sys2Proof
end

