-- ==== Sys2Proof/Config.lean ====
section
/-! DEFINITION. The build-time parameters of base85rs CORE (spec 00_scope.md R8) and their defaults. They are fixed
for the life of the hardware (10_state.md R29). No free value is needed: the spec leaves no result open. -/

namespace Sys2Proof

/-- What the decoder does when a group's value exceeds 2^32-1 (00_scope.md R8, 42_decoder.md R93). -/
inductive OvfMode where
  | wrap
  | fail
  deriving DecidableEq, Repr

/-- The parameters of 00_scope.md R8. -/
structure Config where
  ovfMode : OvfMode
  encOutqDepth : Nat
  decOutqDepth : Nat
  deriving DecidableEq, Repr

/-- The defaults of 00_scope.md R8: WRAP, 8 and 8. -/
def Config.default : Config := { ovfMode := .wrap, encOutqDepth := 8, decOutqDepth := 8 }

/-- The legal values of 00_scope.md R8. -/
abbrev Config.Legal (c : Config) : Prop := 5 ≤ c.encOutqDepth ∧ 4 ≤ c.decOutqDepth

end Sys2Proof
end

