-- ==== Sys2Proof/Machine/Alphabet.lean ====
section
/-! DEFINITION. The block alphabet_lut: the forward and reverse tables of spec 40_alphabet_lut.md R67 and R68. They are
constants, not state (10_state.md R25). -/

namespace Sys2Proof.Machine

/-- Digits 0 to 9 of the forward table: `0` to `9` (40_alphabet_lut.md R67). -/
def fwdDecimal : List Byte := [0x30, 0x31, 0x32, 0x33, 0x34, 0x35, 0x36, 0x37, 0x38, 0x39]

/-- Digits 10 to 35: `A` to `Z`. -/
def fwdUpper : List Byte :=
  [0x41, 0x42, 0x43, 0x44, 0x45, 0x46, 0x47, 0x48, 0x49, 0x4A, 0x4B, 0x4C, 0x4D] ++
  [0x4E, 0x4F, 0x50, 0x51, 0x52, 0x53, 0x54, 0x55, 0x56, 0x57, 0x58, 0x59, 0x5A]

/-- Digits 36 to 61: `a` to `z`. -/
def fwdLower : List Byte :=
  [0x61, 0x62, 0x63, 0x64, 0x65, 0x66, 0x67, 0x68, 0x69, 0x6A, 0x6B, 0x6C, 0x6D] ++
  [0x6E, 0x6F, 0x70, 0x71, 0x72, 0x73, 0x74, 0x75, 0x76, 0x77, 0x78, 0x79, 0x7A]

/-- Digits 62 to 84: the 23 punctuation characters, in the order of PUNCT (40_alphabet_lut.md R67, R68). -/
def punct : List Byte :=
  [0x21, 0x23, 0x24, 0x25, 0x26, 0x28, 0x29, 0x2A, 0x2B, 0x2D, 0x3B, 0x3C] ++
  [0x3D, 0x3E, 0x3F, 0x40, 0x5E, 0x5F, 0x60, 0x7B, 0x7C, 0x7D, 0x7E]

/-- The 85 entries of FWD, indexed by the digit (40_alphabet_lut.md R67). -/
def fwdTable : List Byte := fwdDecimal ++ fwdUpper ++ fwdLower ++ punct

/-- FWD(v). The table is used at 0..84 only; past its end it reads 0x00 (log entry 9). -/
def fwd (v : Digit) : Byte := fwdTable.getD v.toNat 0

/-- An entry of the reverse table: (ok, val) (10_state.md R25). -/
structure RevEntry where
  ok : Bool
  val : Digit
  deriving DecidableEq, Repr

/-- REV(c), by the ranges of 40_alphabet_lut.md R68. -/
def rev (c : Byte) : RevEntry :=
  if 0x30#8 ≤ c ∧ c ≤ 0x39#8 then ⟨true, BitVec.ofNat 7 (c.toNat - 0x30)⟩
  else if 0x41#8 ≤ c ∧ c ≤ 0x5A#8 then ⟨true, BitVec.ofNat 7 (c.toNat - 0x41 + 10)⟩
  else if 0x61#8 ≤ c ∧ c ≤ 0x7A#8 then ⟨true, BitVec.ofNat 7 (c.toNat - 0x61 + 36)⟩
  else if c ∈ punct then ⟨true, BitVec.ofNat 7 (62 + punct.idxOf c)⟩
  else ⟨false, 0⟩

end Sys2Proof.Machine
end

