-- ==== Sys2Proof/Machine/Operands.lean ====
section
/-! DEFINITION. Operand assembly and number formats: byte and BE32 (spec 00_scope.md R10), the encoder's byte slots
(30_encoding.md R60), the digits of a chunk (41_encoder.md R74) and the decoder's fold (42_decoder.md R88, R95). -/

namespace Sys2Proof.Machine

/-- byte(V, i): bits 31-8i down to 24-8i; byte 0 is the most significant (00_scope.md R10). -/
def byteAt (v : Chunk) (i : Nat) : Byte := v.extractLsb' (24 - 8 * i) 8

/-- The four bytes of a value, most significant first (20_memory.md R37). -/
def bytesOf (v : Chunk) : List Byte := [byteAt v 0, byteAt v 1, byteAt v 2, byteAt v 3]

/-- BE32(b0, b1, b2, b3) (00_scope.md R10). -/
def be32 (b0 b1 b2 b3 : Byte) : Chunk :=
  BitVec.ofNat 32 (b0.toNat * 2 ^ 24 + b1.toNat * 2 ^ 16 + b2.toNat * 2 ^ 8 + b3.toNat)

/-- Byte `b` placed in byte slot `c` of a chunk: `v OR (zext_32(b) << (24 - 8c))` (41_encoder.md R75). -/
def placeByte (v : Chunk) (c : Nat) (b : Byte) : Chunk := v ||| (b.setWidth 32 <<< (24 - 8 * c))

/-- EncodeDigits(V), most significant first (41_encoder.md R74). -/
def encodeDigits (v : Chunk) : List Digit :=
  [v.toNat / 85 ^ 4,
   v.toNat % 85 ^ 4 / 85 ^ 3,
   v.toNat % 85 ^ 3 / 85 ^ 2,
   v.toNat % 85 ^ 2 / 85,
   v.toNat % 85].map (BitVec.ofNat 7)

/-- EncodeSyms(V) (41_encoder.md R74). -/
def encodeSyms (v : Chunk) : List Byte := (encodeDigits v).map fwd

/-- One fold step at 33 bits: `zext_33(acc) * 85 + zext_33(val)` (42_decoder.md R88). -/
def foldStep (acc : Chunk) (val : Digit) : Fold := acc.setWidth 33 * 85#33 + val.setWidth 33

/-- A tail's fold over `m` padding symbols of value 84, in closed form: `zext_33(acc)*85^m + (85^m - 1)`
(42_decoder.md R95). -/
def foldPadded (acc : Chunk) (m : Nat) : Fold :=
  acc.setWidth 33 * BitVec.ofNat 33 (85 ^ m) + BitVec.ofNat 33 (85 ^ m - 1)

end Sys2Proof.Machine
end

