-- ==== Sys2Proof/Machine/State.lean ====
section
/-! DEFINITION. The state of base85rs CORE (spec 10_state.md R17 to R24), the reasons a step can stop
(60_exceptions.md R121) and the state after reset (10_state.md R31). -/

namespace Sys2Proof.Machine

/-- The decoder's frame status, `dec_st` (10_state.md R23); its 2-bit codes are `Status.code` of Flags.lean. -/
inductive Status where
  | ok
  | okWrapped
  | invalidSymbol
  | overflow
  deriving DecidableEq, Repr

/-- Why the model stops (60_exceptions.md R121). A decoder failure is not among them: it is a defined outcome. -/
inductive Fault where
  /-- Raised by every beat and pop before the first reset edge, where the state is unspecified (70_reset_and_hazards.md
  R124, 93_implementation_defined.md I4). Safe. -/
  | preReset
  /-- Raised by every beat and pop in a state that breaks 10_state.md R26 (60_exceptions.md R121). No state reached
  from reset does. Safe. -/
  | brokenInvariant
  /-- Raised by a pop whose word is one that 30_encoding.md R57 says is never emitted. Safe. -/
  | illegalOutputWord (w : OutWord)
  deriving DecidableEq, Repr

/-- Instructions with no meaning. No arm of exec raises it: every row of the opcode table has its meaning. -/
inductive Refusal where
  /-- Raised only by an arm of exec that has no meaning yet. Safe. -/
  | notModelled (mnemonic : String)
  deriving DecidableEq, Repr

/-- What an operation gives back to the host (43_stream_control.md R107, last column). -/
inductive Returned where
  /-- A word taken from `enc_out`. -/
  | encWord (w : OutWord)
  /-- A word taken from `dec_out`. -/
  | decWord (w : OutWord)
  /-- `lut_fwd_ok` and `lut_fwd_sym`, as read. -/
  | lutFwd (ok : Bool) (sym : Byte)
  /-- `lut_rev_ok` and `lut_rev_val`, as read. -/
  | lutRev (ok : Bool) (val : Digit)
  /-- A reset edge: it cuts the open frame of both channels (70_reset_and_hazards.md R126). -/
  | reset
  deriving DecidableEq, Repr

/-- The machine: the record of 10_state.md R17 under its own names, the parameters, and the host's side. -/
structure State where
  /-- The parameters of 00_scope.md R8, fixed; no operation writes them (log entry 1). -/
  cfg : Config
  /-- Whether a reset edge has happened since power-on (70_reset_and_hazards.md R124; log entry 4). -/
  rstSeen : Bool
  /-- The chunk being assembled, big-endian, zero filled (10_state.md R18). -/
  enc_v : Chunk
  /-- Bytes held in the chunk (10_state.md R19). -/
  enc_cnt : Fin 4
  /-- Encoder output words produced and not yet taken, head first (10_state.md R20). -/
  enc_q : List OutWord
  /-- Horner accumulator of the current group (10_state.md R21). -/
  dec_acc : Chunk
  /-- Symbols folded into the current group (10_state.md R22). -/
  dec_cnt : Fin 5
  /-- Frame status so far (10_state.md R23). -/
  dec_st : Status
  /-- Decoder output words produced and not yet taken, head first (10_state.md R24). -/
  dec_q : List OutWord
  /-- What each host agent still has to do, in its order; its head is what it offers now (00_scope.md R13). -/
  agents : List (List Offer)
  /-- The agent that moves at each coming step; past its end agent 0 moves (20_memory.md R42,
  70_reset_and_hazards.md R133). -/
  turn : List Nat
  /-- What the host got back, oldest first (43_stream_control.md R107; log entry 3). -/
  returned : List Returned
  deriving DecidableEq, Repr

/-- The machine right after reset, with the default parameters and a host that has nothing to do
(10_state.md R31; log entries 1, 2, 3 and 4). -/
def State.reset : State where
  cfg := Config.default
  rstSeen := true
  enc_v := 0
  enc_cnt := 0
  enc_q := []
  dec_acc := 0
  dec_cnt := 0
  dec_st := .ok
  dec_q := []
  agents := []
  turn := []
  returned := []

end Sys2Proof.Machine
end

