-- ==== Sys2Proof/Machine/Flags.lean ====
section
/-! DEFINITION. The one status flag, `dec_st` (spec 10_state.md R23, R28): its codes, the output words that carry it
(30_encoding.md R55 to R57), and how an overflowing fold sets it (42_decoder.md R93). -/

namespace Sys2Proof.Machine

/-- The 2-bit code of a status (10_state.md R23, 30_encoding.md R56). -/
def Status.code : Status → BitVec 2
  | .ok => 0b00#2
  | .okWrapped => 0b01#2
  | .invalidSymbol => 0b10#2
  | .overflow => 0b11#2

/-- The status a code stands for (30_encoding.md R56). -/
def Status.ofCode (c : BitVec 2) : Status :=
  if c = 0b00#2 then .ok else if c = 0b01#2 then .okWrapped else if c = 0b10#2 then .invalidSymbol else .overflow

/-- `ST[1] = 1`: the frame has failed, and a decoder in this status drains (10_state.md R23). -/
def Status.failed (st : Status) : Bool := st.code.getLsbD 1

/-! ## Output words (30_encoding.md R55) -/

/-- DataW(d). -/
def dataW (d : Byte) : OutWord := 0b000#3 ++ d

/-- EndW(st). -/
def endW (st : Status) : OutWord := 0b1#1 ++ (st.code ++ 0x00#8)

/-- Bit 10, `K`: true for an END word. -/
def outKind (w : OutWord) : Bool := w.getLsbD 10

/-- Bits 9..8, `ST`. -/
def outStatus (w : OutWord) : BitVec 2 := w.extractLsb' 8 2

/-- Bits 7..0, `D`. -/
def outData (w : OutWord) : Byte := w.extractLsb' 0 8

/-- Whether the encoder can have emitted a word: none of those 30_encoding.md R57 rules out. -/
def encWordLegal (w : OutWord) : Bool :=
  if outKind w then outData w == 0 && outStatus w == Status.ok.code else outStatus w == 0

/-- Whether an END status can occur in a mode (30_encoding.md R56, R57). -/
def statusLegal (mode : OvfMode) (st : Status) : Bool :=
  match mode with
  | .wrap => st != .overflow
  | .fail => st != .okWrapped

/-- Whether the decoder can have emitted a word: none of those 30_encoding.md R57 rules out. -/
def decWordLegal (mode : OvfMode) (w : OutWord) : Bool :=
  if outKind w then outData w == 0 && statusLegal mode (Status.ofCode (outStatus w)) else outStatus w == 0

/-! ## The fifth fold (42_decoder.md R93) -/

/-- What Resolve answers: emit a 32-bit value under a status, or fail with OVERFLOW. -/
inductive Resolved where
  | emit (g : Chunk) (st : Status)
  | overflow
  deriving DecidableEq, Repr

/-- Resolve(t), with the mode and the status so far (42_decoder.md R93). -/
def resolve (mode : OvfMode) (st : Status) (t : Fold) : Resolved :=
  if t.toNat ≤ 0xFFFFFFFF then .emit (t.setWidth 32) st
  else match mode with
    | .wrap => .emit (t.setWidth 32) .okWrapped
    | .fail => .overflow

end Sys2Proof.Machine
end

