-- ==== Sys2Proof/Machine/Invariant.lean ====
section
/-! DEFINITION. The invariants of spec 10_state.md R26, one predicate each, and their conjunction. A beat or pop in a
state that breaks them faults (60_exceptions.md R121). -/

namespace Sys2Proof.Machine

/-- R26.1: every byte slot at or after slot `enc_cnt` of the chunk is zero. -/
abbrev State.ChunkClear (s : State) : Prop := s.enc_v.toNat % 2 ^ (32 - 8 * s.enc_cnt.val) = 0

/-- R26.2: `dec_acc < 85^dec_cnt`. -/
abbrev State.AccBounded (s : State) : Prop := s.dec_acc.toNat < 85 ^ s.dec_cnt.val

/-- R26.3: a failed frame holds no group. -/
abbrev State.DrainEmpty (s : State) : Prop := s.dec_st.failed = true → s.dec_cnt = 0 ∧ s.dec_acc = 0

/-- R26.4: WRAP never shows OVERFLOW, FAIL never shows OK_WRAPPED. -/
abbrev State.StatusOfMode (s : State) : Prop := statusLegal s.cfg.ovfMode s.dec_st = true

/-- R26.5: the queues are within their capacities. -/
abbrev State.QueuesBounded (s : State) : Prop :=
  s.enc_q.length ≤ s.cfg.encOutqDepth ∧ s.dec_q.length ≤ s.cfg.decOutqDepth

/-- 10_state.md R26, all five. -/
abbrev State.Inv (s : State) : Prop :=
  s.ChunkClear ∧ s.AccBounded ∧ s.DrainEmpty ∧ s.StatusOfMode ∧ s.QueuesBounded

end Sys2Proof.Machine
end

