-- ==== Sys2Proof/Machine/Ports.lean ====
section
/-! DEFINITION. The output ports as functions of the state (spec 10_state.md R32) and of the LUT inputs
(40_alphabet_lut.md R70, R71), and the pins of `base85_core` (30_encoding.md R48). -/

namespace Sys2Proof.Machine

/-- `enc_out_valid` (10_state.md R32). -/
def encOutValid (s : State) : Bool := s.enc_q.length != 0

/-- `enc_out_word`: the head of the queue, 0 when not valid (10_state.md R32). -/
def encOutWord (s : State) : OutWord := s.enc_q.headD 0

/-- `dec_out_valid` (10_state.md R32). -/
def decOutValid (s : State) : Bool := s.dec_q.length != 0

/-- `dec_out_word`: the head of the queue, 0 when not valid (10_state.md R32). -/
def decOutWord (s : State) : OutWord := s.dec_q.headD 0

/-- `enc_in_ready`: not in reset, and at least 5 slots free (10_state.md R32, 41_encoder.md R83; log entry 5). -/
def encInReady (rst : Bool) (s : State) : Bool := !rst && decide (5 ≤ s.cfg.encOutqDepth - s.enc_q.length)

/-- `dec_in_ready`: not in reset, and at least 4 slots free (10_state.md R32, 42_decoder.md R97; log entry 5). -/
def decInReady (rst : Bool) (s : State) : Bool := !rst && decide (4 ≤ s.cfg.decOutqDepth - s.dec_q.length)

/-- `(lut_fwd_ok, lut_fwd_sym)`: out of range gives (0, 0x00) (40_alphabet_lut.md R70). -/
def lutFwdPort (v : Digit) : Bool × Byte := if v.toNat ≤ 84 then (true, fwd v) else (false, 0x00)

/-- `(lut_rev_ok, lut_rev_val)` (40_alphabet_lut.md R71). -/
def lutRevPort (c : Byte) : Bool × Digit := ((rev c).ok, (rev c).val)

/-! ## The pins (30_encoding.md R48) -/

/-- The input pins at a rising edge of `clk`. -/
structure PinInputs where
  rst : Bool
  enc_in_valid : Bool
  enc_in_word : InWord
  enc_out_ready : Bool
  dec_in_valid : Bool
  dec_in_word : InWord
  dec_out_ready : Bool
  lut_fwd_idx : Digit
  lut_rev_sym : Byte
  deriving DecidableEq, Repr

/-- The stream output pins. -/
structure StreamOutputs where
  enc_in_ready : Bool
  enc_out_valid : Bool
  enc_out_word : OutWord
  dec_in_ready : Bool
  dec_out_valid : Bool
  dec_out_word : OutWord
  deriving DecidableEq, Repr

/-- The output pins: the stream outputs, `none` where they are unspecified, and the LUT outputs. -/
structure PinOutputs where
  stream : Option StreamOutputs
  lut_fwd_ok : Bool
  lut_fwd_sym : Byte
  lut_rev_ok : Bool
  lut_rev_val : Digit
  deriving DecidableEq, Repr

/-- The stream outputs of 10_state.md R32. Before the first reset they are unspecified (70_reset_and_hazards.md
R124). -/
def streamOutputs (rst : Bool) (s : State) : Option StreamOutputs :=
  if s.rstSeen then
    some { enc_in_ready := encInReady rst s, enc_out_valid := encOutValid s, enc_out_word := encOutWord s,
           dec_in_ready := decInReady rst s, dec_out_valid := decOutValid s, dec_out_word := decOutWord s }
  else none

/-- All output pins. The LUT outputs are functions of the LUT inputs alone, in and before reset too
(10_state.md R32, 70_reset_and_hazards.md R122, R131). -/
def pinOutputs (p : PinInputs) (s : State) : PinOutputs where
  stream := streamOutputs p.rst s
  lut_fwd_ok := (lutFwdPort p.lut_fwd_idx).1
  lut_fwd_sym := (lutFwdPort p.lut_fwd_idx).2
  lut_rev_ok := (lutRevPort p.lut_rev_sym).1
  lut_rev_val := (lutRevPort p.lut_rev_sym).2

end Sys2Proof.Machine
end

