-- ==== Sys2Proof/Machine/Ops.lean ====
section
/-! DEFINITION. The named updates of the state, the host agents' side of a handshake (fetch, retire, wait), the guards
shared by every beat and pop, the decoder's failure entry and return (spec 42_decoder.md R92, R96, 60_exceptions.md
R114, R115), and the host's placing of an offer. -/

namespace Sys2Proof.Machine

/-- The result of an operation. -/
abbrev Result := Host.Outcome State Fault Refusal

/-! ## Updates -/

/-- Emit(enc_q, w) for each word, in order (00_scope.md R11). -/
def State.emitEnc (ws : List OutWord) (s : State) : State := { s with enc_q := s.enc_q ++ ws }

/-- Emit(dec_q, w) for each word, in order (00_scope.md R11). -/
def State.emitDec (ws : List OutWord) (s : State) : State := { s with dec_q := s.dec_q ++ ws }

/-- Writes the encoder's chunk registers (10_state.md R18, R19). -/
def State.setChunk (v : Chunk) (n : Fin 4) (s : State) : State := { s with enc_v := v, enc_cnt := n }

/-- Writes the decoder's group registers (10_state.md R21, R22). -/
def State.setGroup (acc : Chunk) (n : Fin 5) (s : State) : State := { s with dec_acc := acc, dec_cnt := n }

/-- Writes the frame status (10_state.md R23). -/
def State.setStatus (st : Status) (s : State) : State := { s with dec_st := st }

/-- Pop(enc_q) (00_scope.md R11). -/
def State.dropEnc (s : State) : State := { s with enc_q := s.enc_q.tail }

/-- Pop(dec_q) (00_scope.md R11). -/
def State.dropDec (s : State) : State := { s with dec_q := s.dec_q.tail }

/-- Gives the host something back (43_stream_control.md R107). -/
def State.give (r : Returned) (s : State) : State := { s with returned := s.returned ++ [r] }

/-- Every register and queue to its reset value; the parameters and the tables are not touched
(70_reset_and_hazards.md R122). -/
def State.resetRegs (s : State) : State :=
  { s with
    rstSeen := true
    enc_v := 0, enc_cnt := 0, enc_q := []
    dec_acc := 0, dec_cnt := 0, dec_st := .ok, dec_q := [] }

/-! ## The host agents -/

/-- The agent that moves: the head of `turn`, agent 0 past its end (log entry 2). -/
def State.actor (s : State) : Nat := s.turn.headD 0

/-- The turn passes; nothing else changes. An offer that was not taken stays offered, as 30_encoding.md R49 asks. -/
def State.pass (s : State) : State := { s with turn := s.turn.tail }

/-- The moving agent's offer has been taken: it goes on to its next one, and the turn passes. -/
def State.retire (s : State) : State := { s with agents := s.agents.modify s.actor List.tail, turn := s.turn.tail }

/-- What an agent offers now: the head of its list. -/
def offerOf (agents : List (List Offer)) (n : Nat) : Option Offer := (agents.getD n []).head?

/-- The operation the moving agent offers, if it offers one (20_memory.md R41, R42). -/
def fetch (s : State) : Option Instr := (offerOf s.agents s.actor).map decode

/-- Puts an offer before everything agent `n` still has to do; agents that do not exist yet have nothing to do. -/
def putOffer (o : Offer) : Nat → List (List Offer) → List (List Offer)
  | 0, [] => [[o]]
  | 0, a :: as => (o :: a) :: as
  | n + 1, [] => [] :: putOffer o n []
  | n + 1, a :: as => a :: putOffer o n as

/-- The state in which the agent that moves next offers `o` first. -/
def placeOffer (o : Offer) (s : State) : State := { s with agents := putOffer o s.actor s.agents }

/-- No beat is offered: nothing changes but the turn (60_exceptions.md R120). -/
def idle (s : State) : Result := .next s.pass

/-! ## Guards -/

/-- Beats and pops run only after the first reset and in a state of 10_state.md R26; elsewhere they are the model's
faults of 60_exceptions.md R121 (log entries 4 and 10). -/
def guarded (s : State) (r : Result) : Result :=
  if s.rstSeen = true then
    if s.Inv then r else .fault .brokenInvariant
  else .fault .preReset

/-- A beat on `enc_in`: its effect when the encoder is ready, else the producer waits (41_encoder.md R83). -/
def encBeat (effect : State → State) (s : State) : Result :=
  guarded s (if encInReady false s = true then .next (effect s).retire else .next s.pass)

/-- A beat on `dec_in`: its effect when the decoder is ready, else the producer waits (42_decoder.md R97). -/
def decBeat (effect : State → State) (s : State) : Result :=
  guarded s (if decInReady false s = true then .next (effect s).retire else .next s.pass)

/-! ## Failure entry and return: what stands for taking an exception and returning from one -/

/-- Fail(E): the status takes the failure code, the group is cleared, nothing is emitted; the decoder drains from here
(42_decoder.md R96, 60_exceptions.md R114). -/
def failFrame (e : Status) (s : State) : State := (s.setGroup 0 0).setStatus e

/-- The end of a decoder frame: the group is cleared and the status is OK again, whatever the frame did
(42_decoder.md R92, 60_exceptions.md R115). -/
def endFrame (s : State) : State := (s.setGroup 0 0).setStatus .ok

end Sys2Proof.Machine
end

