-- ==== Sys2Proof/Machine/Decoder.lean ====
section
/-! DEFINITION. base85_decoder: DEC.SPACE, DEC.DATA and DEC.END (spec 42_decoder.md R89 to R96). -/

namespace Sys2Proof.Machine

/-- CompleteGroup(t): a full group of 5 symbols (42_decoder.md R94). -/
def completeGroup (t : Fold) (s : State) : State :=
  match resolve s.cfg.ovfMode s.dec_st t with
  | .overflow => failFrame .overflow s
  | .emit g st => ((s.emitDec ((bytesOf g).map dataW)).setStatus st).setGroup 0 0

/-- The words of CompleteTail(): the first k-1 bytes and the END word, or END with OVERFLOW (42_decoder.md R95). -/
def tailWords (s : State) : List OutWord :=
  match resolve s.cfg.ovfMode s.dec_st (foldPadded s.dec_acc (5 - s.dec_cnt.val)) with
  | .overflow => [endW .overflow]
  | .emit g st => ((bytesOf g).take (s.dec_cnt.val - 1)).map dataW ++ [endW st]

/-- The effect of an accepted DEC.DATA beat in the normal state (42_decoder.md R90). -/
def decSymbolEffect (c : Byte) (s : State) : State :=
  if (rev c).ok = true then
    let t := foldStep s.dec_acc (rev c).val
    if s.dec_cnt.val < 4 then s.setGroup (t.setWidth 32) (s.dec_cnt + 1)
    else completeGroup t s
  else failFrame .invalidSymbol s

/-- The effect of an accepted DEC.DATA beat: nothing in the drain state (42_decoder.md R90, R91). -/
def decDataEffect (c : Byte) (s : State) : State :=
  if s.dec_st.failed = true then s else decSymbolEffect c s

/-- The effect of an accepted DEC.END beat (42_decoder.md R92). -/
def decEndEffect (s : State) : State :=
  endFrame (s.emitDec (if s.dec_st.failed = true ∨ s.dec_cnt = 0 then [endW s.dec_st] else tailWords s))

/-- DEC.SPACE: the beat is taken and changes nothing, in every state (42_decoder.md R89). -/
def execDecSpace (s : State) : Result := decBeat id s

/-- DEC.DATA (42_decoder.md R90, R91). -/
def execDecData (c : Byte) (s : State) : Result := decBeat (decDataEffect c) s

/-- DEC.END; the reserved field is ignored (42_decoder.md R92, 30_encoding.md R53; log entry 6). -/
def execDecEnd (_r : Byte) (s : State) : Result := decBeat decEndEffect s

end Sys2Proof.Machine
end

