-- ==== Sys2Proof/Machine/Encoder.lean ====
section
/-! DEFINITION. base85_encoder: ENC.DATA and ENC.END (spec 41_encoder.md R75, R76). -/

namespace Sys2Proof.Machine

/-- The effect of an accepted ENC.DATA beat (41_encoder.md R75): the byte goes to slot `enc_cnt`, and a fourth byte
converts the chunk at once. -/
def encDataEffect (d : Byte) (s : State) : State :=
  let v1 := placeByte s.enc_v s.enc_cnt.val d
  if s.enc_cnt.val < 3 then s.setChunk v1 (s.enc_cnt + 1)
  else (s.emitEnc ((encodeSyms v1).map dataW)).setChunk 0 0

/-- The symbols of the final chunk: the first n+1 of its five, none when it is empty (41_encoder.md R76, R77). -/
def encTail (s : State) : List OutWord :=
  if s.enc_cnt = 0 then [] else ((encodeSyms s.enc_v).take (s.enc_cnt.val + 1)).map dataW

/-- The effect of an accepted ENC.END beat (41_encoder.md R76). -/
def encEndEffect (s : State) : State := (s.emitEnc (encTail s ++ [endW .ok])).setChunk 0 0

/-- ENC.DATA (41_encoder.md R75). -/
def execEncData (d : Byte) (s : State) : Result := encBeat (encDataEffect d) s

/-- ENC.END; the reserved field is ignored (41_encoder.md R76, 30_encoding.md R53; log entry 6). -/
def execEncEnd (_r : Byte) (s : State) : Result := encBeat encEndEffect s

end Sys2Proof.Machine
end

