-- ==== Sys2Proof/Machine/Lut.lean ====
section
/-! DEFINITION. The LUT port operations (spec 40_alphabet_lut.md R70, R71). They write no state of the hardware, wait
for nothing and work before the first reset too (40_alphabet_lut.md R73, 70_reset_and_hazards.md R125). -/

namespace Sys2Proof.Machine

/-- LUT.FWD (40_alphabet_lut.md R70). -/
def execLutFwd (v : Digit) (s : State) : Result :=
  .next (s.give (.lutFwd (lutFwdPort v).1 (lutFwdPort v).2)).retire

/-- LUT.REV (40_alphabet_lut.md R71). -/
def execLutRev (c : Byte) (s : State) : Result :=
  .next (s.give (.lutRev (lutRevPort c).1 (lutRevPort c).2)).retire

end Sys2Proof.Machine
end

