-- ==== Sys2Proof/Machine/Pops.lean ====
section
/-! DEFINITION. The output handshakes ENC.POP and DEC.POP (spec 43_stream_control.md R102, R103). With an empty queue
the consumer waits. A word that is never emitted is a fault of the model (30_encoding.md R57, 60_exceptions.md R121). -/

namespace Sys2Proof.Machine

/-- ENC.POP (43_stream_control.md R102). -/
def execEncPop (s : State) : Result :=
  guarded s
    (if encOutValid s = true then
      if encWordLegal (encOutWord s) = true then .next (s.dropEnc.give (.encWord (encOutWord s))).retire
      else .fault (.illegalOutputWord (encOutWord s))
    else .next s.pass)

/-- DEC.POP (43_stream_control.md R103). -/
def execDecPop (s : State) : Result :=
  guarded s
    (if decOutValid s = true then
      if decWordLegal s.cfg.ovfMode (decOutWord s) = true then .next (s.dropDec.give (.decWord (decOutWord s))).retire
      else .fault (.illegalOutputWord (decOutWord s))
    else .next s.pass)

end Sys2Proof.Machine
end

