-- ==== Sys2Proof/Machine/Reset.lean ====
section
/-! DEFINITION. RST (spec 70_reset_and_hazards.md R122). It works from every state, and leaves a mark in what the host
got back, since it cuts the open frames (R126). -/

namespace Sys2Proof.Machine

/-- RST (70_reset_and_hazards.md R122). -/
def execRst (s : State) : Result := .next (s.resetRegs.give .reset).retire

end Sys2Proof.Machine
end

