-- ==== Sys2Proof/Machine/Dispatch.lean ====
section
/-! DEFINITION. One arm per operation of the opcode table (spec 30_encoding.md R62). -/

namespace Sys2Proof.Machine

/-- What an operation does. -/
def exec (i : Instr) (s : State) : Host.Outcome State Fault Refusal :=
  match i with
  | .encData d => Sys2Proof.Machine.execEncData d s
  | .encEnd r => Sys2Proof.Machine.execEncEnd r s
  | .decSpace => Sys2Proof.Machine.execDecSpace s
  | .decData c => Sys2Proof.Machine.execDecData c s
  | .decEnd r => Sys2Proof.Machine.execDecEnd r s
  | .lutFwd v => Sys2Proof.Machine.execLutFwd v s
  | .lutRev c => Sys2Proof.Machine.execLutRev c s
  | .encPop => Sys2Proof.Machine.execEncPop s
  | .decPop => Sys2Proof.Machine.execDecPop s
  | .rst => Sys2Proof.Machine.execRst s

end Sys2Proof.Machine
end

