-- ==== Sys2Proof/Machine/Step.lean ====
section
/-! DEFINITION. One step (spec 00_scope.md R12): the agent that moves has its offer decoded and run; an agent with
nothing to offer lets its turn pass. And the host's placing of a table word. -/

namespace Sys2Proof.Machine

/-- One step of the machine. -/
def step (s : State) : Host.Outcome State Fault Refusal :=
  match fetch s with
  | some i => exec i s
  | none => idle s

/-- The state whose next step runs the instruction a table word decodes to: the moving agent offers it first. A word
that decodes to nothing is not placed (log entry 8). -/
def State.withFetchWord (s : State) (nbits w : Nat) : State :=
  match tableOffer nbits w with
  | some o => placeOffer o s
  | none => s

end Sys2Proof.Machine
end

