-- ==== Sys2Proof/Machine/Frames.lean ====
section
/-! DEFINITION. Frame-level functions: Encode (spec 41_encoder.md R79), Decode (42_decoder.md R85), the word streams of
whole input sequences (70_reset_and_hazards.md R136) and the result of a frame as its consumer reads it
(43_stream_control.md R108). The step does not use them: they are what runs of beats are held against. -/

namespace Sys2Proof.Machine

/-- Encode(b): each chunk of n bytes, zero padded, gives the first n+1 of its symbols (41_encoder.md R77 to R79). -/
def encodeBytes : List Byte → List Byte
  | [] => []
  | [b0] => (encodeSyms (be32 b0 0 0 0)).take 2
  | [b0, b1] => (encodeSyms (be32 b0 b1 0 0)).take 3
  | [b0, b1, b2] => (encodeSyms (be32 b0 b1 b2 0)).take 4
  | b0 :: b1 :: b2 :: b3 :: rest => encodeSyms (be32 b0 b1 b2 b3) ++ encodeBytes rest

/-- A frame's result: its bytes and a success status, or its failure (43_stream_control.md R108). -/
inductive FrameResult where
  | done (data : List Byte) (st : Status)
  | failed (st : Status)
  deriving DecidableEq, Repr

/-- Fold(v0, v1, ...), exact (42_decoder.md R88). -/
def foldDigits (vs : List Digit) : Nat := vs.foldl (fun acc v => acc * 85 + v.toNat) 0

/-- The fold of a group of 1 to 5 valid symbols, padded with digits 84 to length 5 (42_decoder.md R85, R95). -/
def groupFold (g : List Byte) : Nat :=
  foldDigits (g.map (fun c => (rev c).val) ++ List.replicate (5 - g.length) 84#7)

/-- The result of one group of k = 1 to 5 symbols under the status so far: k-1 bytes (42_decoder.md R85). -/
def decodeGroup (mode : OvfMode) (st : Status) (g : List Byte) : FrameResult :=
  if g.any (fun c => !(rev c).ok) then .failed .invalidSymbol
  else if groupFold g ≤ 2 ^ 32 - 1 then
    .done ((bytesOf (BitVec.ofNat 32 (groupFold g))).take (g.length - 1)) st
  else match mode with
    | .fail => .failed .overflow
    | .wrap => .done ((bytesOf (BitVec.ofNat 32 (groupFold g))).take (g.length - 1)) .okWrapped

/-- The bytes of a group joined to those before it; a failure returns no bytes (42_decoder.md R85). -/
def FrameResult.after (out : List Byte) : FrameResult → FrameResult
  | .done data st => .done (out ++ data) st
  | .failed st => .failed st

/-- The groups of a stripped text in order; the first failure ends the frame (42_decoder.md R85, R87). -/
def decodeGroups (mode : OvfMode) (st : Status) : List Byte → FrameResult
  | [] => .done [] st
  | [c0] => decodeGroup mode st [c0]
  | [c0, c1] => decodeGroup mode st [c0, c1]
  | [c0, c1, c2] => decodeGroup mode st [c0, c1, c2]
  | [c0, c1, c2, c3] => decodeGroup mode st [c0, c1, c2, c3]
  | c0 :: c1 :: c2 :: c3 :: c4 :: rest =>
    match decodeGroup mode st [c0, c1, c2, c3, c4] with
    | .failed e => .failed e
    | .done data st' => (decodeGroups mode st' rest).after data

/-- Decode(t): strip 0x20, cut into groups of five (42_decoder.md R85 to R87). -/
def decodeBytes (mode : OvfMode) (t : List Byte) : FrameResult :=
  decodeGroups mode .ok (t.filter (fun c => c != 0x20#8))

/-! ## The words of a sequence of accepted input beats (20_memory.md R41, 70_reset_and_hazards.md R136) -/

/-- The words an encoder input sequence gives, `held` being the bytes of the open chunk: five symbols for each full
chunk, the symbols of the tail and EndW(OK) at each END (41_encoder.md R75 to R79). -/
def encStream (held : List Byte) : List Instr → List OutWord
  | [] => []
  | .encData b :: is =>
    if held.length < 3 then encStream (held ++ [b]) is
    else (encodeBytes (held ++ [b])).map dataW ++ encStream [] is
  | .encEnd _ :: is => (encodeBytes held).map dataW ++ endW .ok :: encStream [] is
  | .decSpace :: is => encStream held is
  | .decData _ :: is => encStream held is
  | .decEnd _ :: is => encStream held is
  | .lutFwd _ :: is => encStream held is
  | .lutRev _ :: is => encStream held is
  | .encPop :: is => encStream held is
  | .decPop :: is => encStream held is
  | .rst :: is => encStream held is

/-- The words of a group's result: its bytes, and with `last` its END word too (42_decoder.md R94, R95). -/
def groupWords (last : Bool) : FrameResult → List OutWord
  | .done data st => data.map dataW ++ (if last = true then [endW st] else [])
  | .failed st => if last = true then [endW st] else []

/-- The status a group's result leaves (42_decoder.md R93, R96). -/
def groupStatus : FrameResult → Status
  | .done _ st => st
  | .failed st => st

/-- The words a decoder input sequence gives, `held` being the symbols of the open group and `st` the frame's status
so far: groups by the exact fold, spaces skipped, nothing after a failure up to END (42_decoder.md R85 to R98). -/
def decStream (mode : OvfMode) (held : List Byte) (st : Status) : List Instr → List OutWord
  | [] => []
  | .decSpace :: is => decStream mode held st is
  | .decData c :: is =>
    if st.failed = true then decStream mode held st is
    else if (rev c).ok = false then decStream mode [] .invalidSymbol is
    else if held.length < 4 then decStream mode (held ++ [c]) st is
    else groupWords false (decodeGroup mode st (held ++ [c])) ++
      decStream mode [] (groupStatus (decodeGroup mode st (held ++ [c]))) is
  | .decEnd _ :: is =>
    (if st.failed = true ∨ held = [] then [endW st] else groupWords true (decodeGroup mode st held)) ++
      decStream mode [] .ok is
  | .encData _ :: is => decStream mode held st is
  | .encEnd _ :: is => decStream mode held st is
  | .lutFwd _ :: is => decStream mode held st is
  | .lutRev _ :: is => decStream mode held st is
  | .encPop :: is => decStream mode held st is
  | .decPop :: is => decStream mode held st is
  | .rst :: is => decStream mode held st is

/-! ## Reading results from output words -/

/-- A frame's verdict: the DATA words of a failed frame are void (43_stream_control.md R108, 60_exceptions.md R116). -/
def frameResult (data : List Byte) (st : Status) : FrameResult :=
  if st.failed = true then .failed st else .done data st

/-- What a consumer sees on its channel: a word, or a reset that cuts the open frame (70_reset_and_hazards.md R126). -/
inductive ChannelEvent where
  | word (w : OutWord)
  | cut
  deriving DecidableEq, Repr

/-- The results of the frames completed in a channel's events; `opened` holds the bytes of the open frame
(43_stream_control.md R108). -/
def frameResults (opened : List Byte) : List ChannelEvent → List FrameResult
  | [] => []
  | .cut :: es => frameResults [] es
  | .word w :: es =>
    if outKind w = true then frameResult opened (Status.ofCode (outStatus w)) :: frameResults [] es
    else frameResults (opened ++ [outData w]) es

/-- The bytes of the open frame in a channel's events: the `D` fields of the DATA words since the last END word or cut;
`opened` holds those before the events (43_stream_control.md R108, 70_reset_and_hazards.md R126). -/
def openBytes (opened : List Byte) : List ChannelEvent → List Byte
  | [] => opened
  | .cut :: es => openBytes [] es
  | .word w :: es => if outKind w = true then openBytes [] es else openBytes (opened ++ [outData w]) es

/-- The encoder consumer's events among what the host got back. -/
def encEvent : Returned → Option ChannelEvent
  | .encWord w => some (.word w)
  | .reset => some .cut
  | .decWord _ => none
  | .lutFwd _ _ => none
  | .lutRev _ _ => none

/-- The decoder consumer's events among what the host got back. -/
def decEvent : Returned → Option ChannelEvent
  | .decWord w => some (.word w)
  | .reset => some .cut
  | .encWord _ => none
  | .lutFwd _ _ => none
  | .lutRev _ _ => none

/-- The results the encoder's consumer has (43_stream_control.md R108). -/
def encResults (s : State) : List FrameResult := frameResults [] (s.returned.filterMap encEvent)

/-- The results the decoder's consumer has (43_stream_control.md R108). -/
def decResults (s : State) : List FrameResult := frameResults [] (s.returned.filterMap decEvent)

/-- The bytes of the frame the encoder's consumer is in the middle of. -/
def encOpenBytes (s : State) : List Byte := openBytes [] (s.returned.filterMap encEvent)

/-- The bytes of the frame the decoder's consumer is in the middle of. -/
def decOpenBytes (s : State) : List Byte := openBytes [] (s.returned.filterMap decEvent)

/-! ## The word sequence of a channel since the last reset (20_memory.md R41, 70_reset_and_hazards.md R136) -/

/-- The words of a channel's events since the last reset, oldest first. -/
def wordsSinceCut : List ChannelEvent → List OutWord :=
  List.foldl (fun ws e => match e with | .word w => ws ++ [w] | .cut => []) []

/-- How many frames are complete among a channel's words: each END word popped completes one
(43_stream_control.md R108). -/
def completeFrames (ws : List OutWord) : Nat := (ws.filter outKind).length

/-- The encoder frames complete since the last reset (43_stream_control.md R108). -/
def encCompleteFrames (s : State) : Nat := completeFrames (wordsSinceCut (s.returned.filterMap encEvent))

/-- The decoder frames complete since the last reset (43_stream_control.md R108). -/
def decCompleteFrames (s : State) : Nat := completeFrames (wordsSinceCut (s.returned.filterMap decEvent))

/-- The encoder's output words since the last reset: those taken, then those queued. -/
def encSequence (s : State) : List OutWord := wordsSinceCut (s.returned.filterMap encEvent) ++ s.enc_q

/-- The decoder's output words since the last reset: those taken, then those queued. -/
def decSequence (s : State) : List OutWord := wordsSinceCut (s.returned.filterMap decEvent) ++ s.dec_q

end Sys2Proof.Machine
end

