-- ==== Sys2Proof/Machine/Program.lean ====
section
/-! DEFINITION. The assembler's lines and pseudo-instructions as host actions (spec 30_encoding.md R65, R66), a run of
such programs by several agents and its end (43_stream_control.md R108), and a platform's chaining of the encoder's
output to the decoder's input (70_reset_and_hazards.md R132). The step does not use them. -/

namespace Sys2Proof.Machine

/-- A line of a host program: an operation (30_encoding.md R65) or a pseudo-instruction (R66). -/
inductive Action where
  | op (i : Instr)
  | encFrame (bytes : List Byte)
  | decFrame (text : List Byte)
  | encPopFrame
  | decPopFrame
  deriving DecidableEq, Repr

/-- One beat of DEC.FRAME: DEC.SPACE for 0x20, else DEC.DATA (30_encoding.md R66). -/
def decFrameBeat (c : Byte) : Instr := if c = 0x20#8 then .decSpace else .decData c

/-- The beats of ENC.FRAME (30_encoding.md R66, R52). -/
def encFrameInstrs (bytes : List Byte) : List Instr := bytes.map .encData ++ [.encEnd 0]

/-- The beats of DEC.FRAME (30_encoding.md R66, R52). -/
def decFrameInstrs (text : List Byte) : List Instr := text.map decFrameBeat ++ [.decEnd 0]

/-! ## Actions, beat by beat -/

/-- The operation an action makes next (30_encoding.md R65, R66). -/
def Action.instr : Action → Instr
  | .op i => i
  | .encFrame [] => .encEnd 0
  | .encFrame (b :: _) => .encData b
  | .decFrame [] => .decEnd 0
  | .decFrame (c :: _) => decFrameBeat c
  | .encPopFrame => .encPop
  | .decPopFrame => .decPop

/-- What is left of an action once that operation is done, `got` being what it gave back: the frames go on to their next
byte, and the pops are repeated until the popped word has K = 1 (30_encoding.md R66). -/
def Action.left (got : Option Returned) : Action → List Action
  | .op _ => []
  | .encFrame [] => []
  | .encFrame (_ :: bytes) => [.encFrame bytes]
  | .decFrame [] => []
  | .decFrame (_ :: text) => [.decFrame text]
  | .encPopFrame => match got with
    | some (.encWord w) => if outKind w = true then [] else [.encPopFrame]
    | _ => [.encPopFrame]
  | .decPopFrame => match got with
    | some (.decWord w) => if outKind w = true then [] else [.decPopFrame]
    | _ => [.decPopFrame]

/-- What is left of an agent's program once the operation of its first action is done. -/
def programLeft (got : Option Returned) : List Action → List Action
  | [] => []
  | a :: as => a.left got ++ as

/-! ## A run of programs -/

/-- A run: the machine, what is left of each agent's program, and the offers taken so far, oldest first. -/
structure ProgramRun where
  state : State
  programs : List (List Action)
  taken : List Offer
  deriving DecidableEq, Repr

/-- A run starts at the reset state, with nothing offered yet (10_state.md R33); `turn` says who moves. -/
def ProgramRun.start (cfg : Config) (turn : List Nat) (programs : List (List Action)) : ProgramRun where
  state := { State.reset with cfg := cfg, turn := turn }
  programs := programs
  taken := []

/-- What an agent has to offer in a run: the offer that waits for its handshake, else its program's next one. -/
def ProgramRun.nextOffer (r : ProgramRun) (n : Nat) : Option Offer :=
  match offerOf r.state.agents n with
  | some o => some o
  | none => (r.programs.getD n []).head?.map (fun a => encode a.instr)

/-- The machine with the moving agent's offer on its port: placed, unless it waits there already. -/
def ProgramRun.offered (r : ProgramRun) : State :=
  match offerOf r.state.agents r.state.actor, r.nextOffer r.state.actor with
  | none, some o => placeOffer o r.state
  | _, _ => r.state

/-- The run after its machine's step to `t`: where the moving agent's offer was taken, its program goes on. -/
def ProgramRun.advance (r : ProgramRun) (t : State) : ProgramRun :=
  match r.nextOffer r.state.actor, offerOf t.agents r.state.actor with
  | some o, none =>
    { state := t
      programs := r.programs.modify r.state.actor (programLeft t.returned.getLast?)
      taken := r.taken ++ [o] }
  | _, _ => { r with state := t }

/-- One step of a run: the moving agent performs its program's actions in order, each blocking until its handshake
completes (30_encoding.md R65). -/
def runStep (r : ProgramRun) : Host.Outcome ProgramRun Fault Refusal :=
  match step r.offered with
  | .next t => .next (r.advance t)
  | .fault f => .fault f
  | .refused e => .refused e

/-- Steps of a run, up to the first stop. -/
def runSteps : Nat → ProgramRun → Host.Outcome ProgramRun Fault Refusal
  | 0, r => .next r
  | k + 1, r =>
    match runStep r with
    | .next r' => runSteps k r'
    | .fault f => .fault f
    | .refused e => .refused e

/-! ## The end of a run (43_stream_control.md R108) -/

/-- The word an offer puts on the encoder's input. -/
def encInWord : Offer → Option InWord
  | .encIn w => some w
  | _ => none

/-- The word an offer puts on the decoder's input. -/
def decInWord : Offer → Option InWord
  | .decIn w => some w
  | _ => none

/-- How many frames of a channel are started by the offers taken: `ends` of them have had their END beat, and `isOpen`
says that one more is open. DESIGN CHOICE (log entry 13): a frame cut by a reset is no longer counted, since it can have
no END word (70_reset_and_hazards.md R126; R108 says nothing of it). -/
def startedFrames (word : Offer → Option InWord) (ends : Nat) (isOpen : Bool) : List Offer → Nat
  | [] => if isOpen = true then ends + 1 else ends
  | o :: os =>
    if o = .rst then startedFrames word 0 false os
    else match word o with
      | some w => if inKind w = true then startedFrames word (ends + 1) false os else startedFrames word ends true os
      | none => startedFrames word ends isOpen os

/-- Every frame the programs started is complete. -/
def ProgramRun.framesComplete (r : ProgramRun) : Bool :=
  startedFrames encInWord 0 false r.taken == encCompleteFrames r.state &&
    startedFrames decInWord 0 false r.taken == decCompleteFrames r.state

/-- A run ends when every frame the programs started is complete and no program has an action left
(43_stream_control.md R108). -/
def ProgramRun.ended (r : ProgramRun) : Bool := r.framesComplete && r.programs.all List.isEmpty

/-! ## Chaining -/

/-- Chaining: an encoder DATA word becomes the decoder word `w[7:0]`, its END word the decoder's 0x100
(70_reset_and_hazards.md R132). -/
def chainWord (w : OutWord) : InWord := if outKind w = true then inWord true 0 else inWord false (outData w)

end Sys2Proof.Machine
end

