-- ==== Sys2Proof/Machine/Assembler.lean ====
section
/-! DEFINITION. The beat assembler (spec 30_encoding.md R65, R66): a line of text read as the host action it stands for,
and an operation printed as a line. Text is a list of characters. What R65 leaves open of the text form (blanks, the
case of hexadecimal digits, quotes inside strings) is log entry 12. -/

namespace Sys2Proof.Machine

/-! ## Mnemonics -/

def nameEncData : List Char := ['E', 'N', 'C', '.', 'D', 'A', 'T', 'A']
def nameEncEnd : List Char := ['E', 'N', 'C', '.', 'E', 'N', 'D']
def nameDecData : List Char := ['D', 'E', 'C', '.', 'D', 'A', 'T', 'A']
def nameDecSpace : List Char := ['D', 'E', 'C', '.', 'S', 'P', 'A', 'C', 'E']
def nameDecEnd : List Char := ['D', 'E', 'C', '.', 'E', 'N', 'D']
def nameLutFwd : List Char := ['L', 'U', 'T', '.', 'F', 'W', 'D']
def nameLutRev : List Char := ['L', 'U', 'T', '.', 'R', 'E', 'V']
def nameEncPop : List Char := ['E', 'N', 'C', '.', 'P', 'O', 'P']
def nameDecPop : List Char := ['D', 'E', 'C', '.', 'P', 'O', 'P']
def nameRst : List Char := ['R', 'S', 'T']
def nameEncFrame : List Char := ['E', 'N', 'C', '.', 'F', 'R', 'A', 'M', 'E']
def nameDecFrame : List Char := ['D', 'E', 'C', '.', 'F', 'R', 'A', 'M', 'E']
def nameEncPopFrame : List Char := nameEncPop ++ ['F', 'R', 'A', 'M', 'E']
def nameDecPopFrame : List Char := nameDecPop ++ ['F', 'R', 'A', 'M', 'E']

/-! ## Reading -/

/-- The quote of a character operand. -/
def charQuote : Char := Char.ofNat 0x27

/-- The quote of a string operand. -/
def stringQuote : Char := Char.ofNat 0x22

/-- Space and tab separate the parts of a line (log entry 12). -/
def isBlank (c : Char) : Bool := c.toNat == 0x20 || c.toNat == 0x09

/-- Whether a line has ended: only blanks are left, or a comment starts (30_encoding.md R65). -/
def lineEnds (cs : List Char) : Bool :=
  match cs.dropWhile isBlank with
  | [] => true
  | c :: _ => c == ';'

/-- The value of a hexadecimal digit, in either case (log entry 12). -/
def hexValue (c : Char) : Option Nat :=
  if 0x30 ≤ c.toNat ∧ c.toNat ≤ 0x39 then some (c.toNat - 0x30)
  else if 0x41 ≤ c.toNat ∧ c.toNat ≤ 0x46 then some (c.toNat - 0x41 + 10)
  else if 0x61 ≤ c.toNat ∧ c.toNat ≤ 0x66 then some (c.toNat - 0x61 + 10)
  else none

/-- The value of two hexadecimal digits. -/
def hexPair (a b : Char) : Option Nat :=
  match hexValue a, hexValue b with
  | some x, some y => some (16 * x + y)
  | _, _ => none

/-- Whether a character is a decimal digit. -/
def isDecimal (c : Char) : Bool := decide (0x30 ≤ c.toNat ∧ c.toNat ≤ 0x39)

/-- The value of decimal digits. -/
def decimalValue (cs : List Char) : Nat := cs.foldl (fun n c => 10 * n + (c.toNat - 0x30)) 0

/-- `0xNN` after its `0x`. -/
def readHexByte : List Char → Option (Nat × List Char)
  | a :: b :: cs => (hexPair a b).map (fun n => (n, cs))
  | _ => none

/-- A quoted ASCII character after its first quote. -/
def readChar : List Char → Option (Nat × List Char)
  | c :: q :: cs => if q = charQuote ∧ c.toNat < 128 then some (c.toNat, cs) else none
  | _ => none

/-- A number operand: `0xNN`, decimal, or a quoted ASCII character (30_encoding.md R65). -/
def readNumber (cs : List Char) : Option (Nat × List Char) :=
  match cs with
  | [] => none
  | c :: rest =>
    if c = charQuote then readChar rest
    else if c = '0' ∧ rest.head? = some 'x' then readHexByte rest.tail
    else if isDecimal c then some (decimalValue (cs.takeWhile isDecimal), cs.dropWhile isDecimal)
    else none

/-- The bytes of an ASCII string, up to its closing quote (30_encoding.md R66). -/
def readString : List Char → Option (List Byte × List Char)
  | [] => none
  | c :: cs =>
    if c = stringQuote then some ([], cs)
    else if c.toNat < 128 then (readString cs).map (fun r => (BitVec.ofNat 8 c.toNat :: r.1, r.2))
    else none

/-- The bytes of a hex string, two digits each, up to its closing quote (30_encoding.md R66). -/
def readHexString : List Char → Option (List Byte × List Char)
  | [] => none
  | [c] => if c = stringQuote then some ([], []) else none
  | a :: b :: cs =>
    if a = stringQuote then some ([], b :: cs)
    else match hexPair a b with
      | some n => (readHexString cs).map (fun r => (BitVec.ofNat 8 n :: r.1, r.2))
      | none => none

/-- The operand of DEC.FRAME: `"s"`. -/
def readText : List Char → Option (List Byte × List Char)
  | c :: cs => if c = stringQuote then readString cs else none
  | [] => none

/-- The operand of ENC.FRAME: `"s"` or `x"hh.."`. -/
def readBuffer : List Char → Option (List Byte × List Char)
  | c :: cs => if c = 'x' ∧ cs.head? = some stringQuote then readHexString cs.tail else readText (c :: cs)
  | [] => none

/-! ## Lines -/

/-- An action without an operand. -/
def bare (a : Action) (rest : List Char) : Option (List Action) := if lineEnds rest = true then some [a] else none

/-- An action with a number operand below `bound`. -/
def withNumber (bound : Nat) (a : Nat → Action) (rest : List Char) : Option (List Action) :=
  match readNumber (rest.dropWhile isBlank) with
  | some (n, cs) => if n < bound then bare (a n) cs else none
  | none => none

/-- An action with a buffer operand. -/
def withBytes (read : List Char → Option (List Byte × List Char)) (a : List Byte → Action) (rest : List Char) :
    Option (List Action) :=
  match read (rest.dropWhile isBlank) with
  | some (bytes, cs) => bare (a bytes) cs
  | none => none

/-- The action a mnemonic and the rest of its line stand for (30_encoding.md R65, R66). `DEC.DATA 0x20` is the word
0x020, so DEC.SPACE. -/
def assembleNamed (name rest : List Char) : Option (List Action) :=
  if name = nameEncData then withNumber 256 (fun n => .op (.encData (BitVec.ofNat 8 n))) rest
  else if name = nameEncEnd then bare (.op (.encEnd 0)) rest
  else if name = nameDecData then withNumber 256 (fun n => .op (decFrameBeat (BitVec.ofNat 8 n))) rest
  else if name = nameDecSpace then bare (.op .decSpace) rest
  else if name = nameDecEnd then bare (.op (.decEnd 0)) rest
  else if name = nameLutFwd then withNumber 128 (fun n => .op (.lutFwd (BitVec.ofNat 7 n))) rest
  else if name = nameLutRev then withNumber 256 (fun n => .op (.lutRev (BitVec.ofNat 8 n))) rest
  else if name = nameEncPop then bare (.op .encPop) rest
  else if name = nameDecPop then bare (.op .decPop) rest
  else if name = nameRst then bare (.op .rst) rest
  else if name = nameEncFrame then withBytes readBuffer .encFrame rest
  else if name = nameDecFrame then withBytes readText .decFrame rest
  else if name = nameEncPopFrame then bare .encPopFrame rest
  else if name = nameDecPopFrame then bare .decPopFrame rest
  else none

/-- One line of a program: no action for a blank or comment line, else its action; `none` where it is no line of
30_encoding.md R65 or R66. -/
def assembleLine (line : List Char) : Option (List Action) :=
  let cs := line.dropWhile isBlank
  if lineEnds cs = true then some []
  else
    let inName := fun c => !(isBlank c || c == ';')
    assembleNamed (cs.takeWhile inName) (cs.dropWhile inName)

/-- A program: its lines' actions, in order (30_encoding.md R65). -/
def assemble : List (List Char) → Option (List Action)
  | [] => some []
  | line :: lines =>
    match assembleLine line, assemble lines with
    | some as, some bs => some (as ++ bs)
    | _, _ => none

/-! ## Printing -/

/-- A hexadecimal digit, in upper case (log entry 12). -/
def hexDigit (n : Nat) : Char := if n < 10 then Char.ofNat (0x30 + n) else Char.ofNat (0x41 + (n - 10))

/-- A mnemonic with a byte operand `0xNN`. -/
def printByte (name : List Char) (n : Nat) : List Char := name ++ [' ', '0', 'x', hexDigit (n / 16), hexDigit (n % 16)]

/-- An operation as a line. The assembler prints the word 0x020 as DEC.SPACE, and has no form for an END word with a
nonzero reserved field (30_encoding.md R53, R65). -/
def printOp : Instr → Option (List Char)
  | .encData d => some (printByte nameEncData d.toNat)
  | .encEnd r => if r = 0 then some nameEncEnd else none
  | .decSpace => some nameDecSpace
  | .decData s => if s = 0x20 then some nameDecSpace else some (printByte nameDecData s.toNat)
  | .decEnd r => if r = 0 then some nameDecEnd else none
  | .lutFwd v => some (printByte nameLutFwd v.toNat)
  | .lutRev c => some (printByte nameLutRev c.toNat)
  | .encPop => some nameEncPop
  | .decPop => some nameDecPop
  | .rst => some nameRst

end Sys2Proof.Machine
end

