-- ==== Sys2Proof/Machine/Edge.lean ====
section
/-! DEFINITION. Sequences of operations, and a rising edge of `clk` with its handshakes (spec 30_encoding.md R49): which
operations the pins make, each handshake judged in the state before the edge (43_stream_control.md R102), reset before
every beat (60_exceptions.md R113). The step does not use them. -/

namespace Sys2Proof.Machine

/-- Operations one after another, up to the first stop. -/
def execAll : List Instr → State → Result
  | [], s => .next s
  | i :: is, s =>
    match exec i s with
    | .next t => execAll is t
    | .fault f => .fault f
    | .refused r => .refused r

/-- A handshake: the operation, when it takes place (30_encoding.md R49). -/
def beatIf (taken : Bool) (o : Offer) : List Offer := if taken = true then [o] else []

/-- Whether a stream port has its handshake, `driven` being the host's side of it and `answered` the block's. Before the
first reset the block's side is unspecified (10_state.md R31, R33, 70_reset_and_hazards.md R124). DESIGN CHOICE (log
entry 4): there a driven port counts as a handshake, whatever the registers hold, so that its operation is run and
faults with `preReset`. -/
def handshake (s : State) (driven answered : Bool) : Bool := driven && (answered || !s.rstSeen)

/-- The operations of one rising edge in the state `s` before it: a reset and nothing else, or the handshakes whose
valid and ready are both 1 (30_encoding.md R49, 70_reset_and_hazards.md R122). Before the first reset every driven
stream port makes its operation: the model's choice, log entry 4. -/
def edgeOffers (p : PinInputs) (s : State) : List Offer :=
  if p.rst = true then [.rst]
  else beatIf (handshake s p.enc_in_valid (encInReady p.rst s)) (.encIn p.enc_in_word) ++
    beatIf (handshake s p.enc_out_ready (encOutValid s)) .encOut ++
    beatIf (handshake s p.dec_in_valid (decInReady p.rst s)) (.decIn p.dec_in_word) ++
    beatIf (handshake s p.dec_out_ready (decOutValid s)) .decOut

/-- Whether the host drives a stream port: a valid word, or readiness to take one. -/
def PinInputs.drivesStream (p : PinInputs) : Bool :=
  p.enc_in_valid || p.enc_out_ready || p.dec_in_valid || p.dec_out_ready

/-- A rising edge, as the steps of its operations (00_scope.md R12, 43_stream_control.md R102; their order is log
entry 11). -/
def edge (p : PinInputs) (s : State) : Result := execAll ((edgeOffers p s).map decode) s

end Sys2Proof.Machine
end

