-- ==== Sys2Proof/Safety.lean ====
section
/-! DEFINITION. What claims are stated in: live and safe states, what two states agree on, and the host's duties
(spec 43_stream_control.md R107). -/

namespace Sys2Proof.Machine

/-! ## States -/

/-- After a reset and within 10_state.md R26: every beat and pop runs or waits here. -/
abbrev State.Live (s : State) : Prop := s.rstSeen = true ∧ s.Inv

/-- No queued word is one of those never emitted (30_encoding.md R57). -/
abbrev State.WordsLegal (s : State) : Prop :=
  (∀ w ∈ s.enc_q, encWordLegal w = true) ∧ (∀ w ∈ s.dec_q, decWordLegal s.cfg.ovfMode w = true)

/-- A live state with legal words queued: what a run from reset stays in. -/
abbrev State.Safe (s : State) : Prop := s.Live ∧ s.WordsLegal

/-- The encoder holds no part of a chunk (10_state.md R27). -/
abbrev State.EncIdle (s : State) : Prop := s.enc_v = 0 ∧ s.enc_cnt = 0

/-- The decoder holds no part of a group and no status of a frame (10_state.md R27). -/
abbrev State.DecIdle (s : State) : Prop := s.dec_acc = 0 ∧ s.dec_cnt = 0 ∧ s.dec_st = .ok

/-! ## Agreement of two states -/

/-- The same encoder registers and queue. -/
abbrev SameEnc (s t : State) : Prop := t.enc_v = s.enc_v ∧ t.enc_cnt = s.enc_cnt ∧ t.enc_q = s.enc_q

/-- The same decoder registers, status and queue. -/
abbrev SameDec (s t : State) : Prop :=
  t.dec_acc = s.dec_acc ∧ t.dec_cnt = s.dec_cnt ∧ t.dec_st = s.dec_st ∧ t.dec_q = s.dec_q

/-- The same parameters, and no reset forgotten. -/
abbrev SameParams (s t : State) : Prop := t.cfg = s.cfg ∧ t.rstSeen = s.rstSeen

/-- From `s` to `t` the moving agent's offer was taken: its list loses its head, no other list changes, and the turn
passes. (The agents' lists and the turn are the model's own fields: log entry 2.) -/
abbrev Taken (s t : State) : Prop := t.agents = s.agents.modify s.actor List.tail ∧ t.turn = s.turn.tail

/-- What no encoder input beat changes: the decoder, the parameters and what the host got back. -/
abbrev EncBeatFrame (s t : State) : Prop :=
  SameDec s t ∧ SameParams s t ∧ t.returned = s.returned ∧ Taken s t

/-- What no decoder input beat changes: the encoder, the parameters and what the host got back. -/
abbrev DecBeatFrame (s t : State) : Prop :=
  SameEnc s t ∧ SameParams s t ∧ t.returned = s.returned ∧ Taken s t

/-! ## Families of operations -/

/-- The operations of the encoder channel. -/
def onEnc : Instr → Bool
  | .encData _ => true
  | .encEnd _ => true
  | .encPop => true
  | .decSpace => false
  | .decData _ => false
  | .decEnd _ => false
  | .decPop => false
  | .lutFwd _ => false
  | .lutRev _ => false
  | .rst => false

/-- The operations of the decoder channel. -/
def onDec : Instr → Bool
  | .encData _ => false
  | .encEnd _ => false
  | .encPop => false
  | .decSpace => true
  | .decData _ => true
  | .decEnd _ => true
  | .decPop => true
  | .lutFwd _ => false
  | .lutRev _ => false
  | .rst => false

/-- The input beats of the encoder channel. -/
def isEncInput (i : Instr) : Bool := onEnc i && i != .encPop

/-- The input beats of the decoder channel. -/
def isDecInput (i : Instr) : Bool := onDec i && i != .decPop

/-- The input beats of a channel that a run of operations takes, in order: those offered while the channel is ready.
A beat offered while it is not only waits (20_memory.md R41, 70_reset_and_hazards.md R129). -/
def takenInputs (isInput : Instr → Bool) (ready : State → Bool) : List Instr → State → List Instr
  | [], _ => []
  | i :: is, s =>
    match exec i s with
    | .next t => if (isInput i && ready s) = true then i :: takenInputs isInput ready is t
                 else takenInputs isInput ready is t
    | .fault _ => []
    | .refused _ => []

/-- The encoder input beats a run takes. -/
def encTaken (is : List Instr) (s : State) : List Instr := takenInputs isEncInput (encInReady false) is s

/-- The decoder input beats a run takes. -/
def decTaken (is : List Instr) (s : State) : List Instr := takenInputs isDecInput (decInReady false) is s

/-! ## The host's duties (30_encoding.md R49, R53, 43_stream_control.md R107) -/

/-- Before the first reset the host drives no stream port without asserting `rst` (70_reset_and_hazards.md R124). -/
abbrev ResetsFirst (p : PinInputs) (s : State) : Prop := s.rstSeen = false → p.drivesStream = true → p.rst = true

/-- Between two edges, a producer whose word was not taken keeps offering it (30_encoding.md R49). Before the first reset
ready is unspecified and nothing may be offered (`ResetsFirst`). -/
abbrev HoldsWords (p p' : PinInputs) (s : State) : Prop :=
  s.rstSeen = true →
  (p.enc_in_valid = true → encInReady p.rst s = false →
    p'.enc_in_valid = true ∧ p'.enc_in_word = p.enc_in_word) ∧
  (p.dec_in_valid = true → decInReady p.rst s = false →
    p'.dec_in_valid = true ∧ p'.dec_in_word = p.dec_in_word)

/-- Software writes 0x00 in the reserved field of an END word (30_encoding.md R53). -/
def reservedZero : Instr → Bool
  | .encEnd r => r == 0
  | .decEnd r => r == 0
  | .encData _ => true
  | .decSpace => true
  | .decData _ => true
  | .decPop => true
  | .encPop => true
  | .lutFwd _ => true
  | .lutRev _ => true
  | .rst => true

/-- Every encoder frame an agent starts ends with its END beat (43_stream_control.md R107); `isOpen` says whether one
is open before these offers. -/
def encFramesEnd (isOpen : Bool) : List Offer → Bool
  | [] => !isOpen
  | .encIn w :: os => encFramesEnd (!inKind w) os
  | .rst :: os => encFramesEnd false os
  | _ :: os => encFramesEnd isOpen os

/-- Every decoder frame an agent starts ends with its END beat (43_stream_control.md R107). -/
def decFramesEnd (isOpen : Bool) : List Offer → Bool
  | [] => !isOpen
  | .decIn w :: os => decFramesEnd (!inKind w) os
  | .rst :: os => decFramesEnd false os
  | _ :: os => decFramesEnd isOpen os

end Sys2Proof.Machine
end

