-- ==== Sys2Proof/Certificates/Slice0/Obligations.lean ====
section
/-! DEFINITION. Statements for the provers. Each formalises rules of the spec; its docstring says which. -/

open Sys2Proof Sys2Proof.Machine

/-! ## Encoding -/

/-- R50, R54, R62: decoding what a well-formed operation is made by gives it back, at every operand. -/
def Obligations.EncodedOperationDecodesBack : Prop :=
  ∀ i : Instr, i.WellFormed → decode (encode i) = i

/-- R62, R63, R64: every offer on every port decodes to a well-formed operation, which is made by that offer alone. -/
def Obligations.DecodedOfferEncodesBack : Prop :=
  ∀ o : Offer, (decode o).WellFormed ∧ encode (decode o) = o

/-- R62: the opcode table is total and unambiguous: an offer is selected by exactly one row, that of its operation. -/
def Obligations.OpcodeTableSelectsOneRow : Prop :=
  ∀ o : Offer, opcodeTable.filter (fun r => r.selects o) = [opcodeRow (decode o)]

/-- R54: the reading of every word on `dec_in` and on `enc_in`, by its bits. -/
def Obligations.InputWordsClassified : Prop :=
  ∀ w : InWord,
    decode (.decIn w) =
      (if w.getLsbD 8 = true then .decEnd (w.extractLsb' 0 8)
       else if w.extractLsb' 0 8 = 0x20#8 then .decSpace
       else .decData (w.extractLsb' 0 8)) ∧
    decode (.encIn w) =
      (if w.getLsbD 8 = true then .encEnd (w.extractLsb' 0 8) else .encData (w.extractLsb' 0 8))

/-- R62, R65: words written out from the assembler table decode to their operations, and bits no port carries are
rejected by name. -/
def Obligations.WrittenWordsDecode : Prop :=
  decodeBits .encIn 0x061 = .ok (.encData 0x61) ∧ decodeBits .encIn 0x100 = .ok (.encEnd 0) ∧
  decodeBits .decIn 0x020 = .ok .decSpace ∧ decodeBits .decIn 0x056 = .ok (.decData 0x56) ∧
  decodeBits .decIn 0x1FF = .ok (.decEnd 0xFF) ∧ decodeBits .lutFwdIdx 31 = .ok (.lutFwd 31) ∧
  decodeBits .lutRevSym 0x7E = .ok (.lutRev 0x7E) ∧ decodeBits .encOut 0 = .ok .encPop ∧
  decodeBits .decOut 0 = .ok .decPop ∧ decodeBits .rst 1 = .ok .rst ∧
  decodeBits .encIn 0x200 = .error .wordTooWide ∧ decodeBits .rst 0 = .error .rstLow

/-- R65: a well-formed operation printed as an assembler line is read back as that operation; an END word with a
nonzero reserved field has no line. (The text form's blanks and digits are the model's choice: log entry 12.) -/
def Obligations.PrintedOperationAssemblesBack : Prop :=
  ∀ i : Instr, i.WellFormed →
    if reservedZero i = true then ∃ line, printOp i = some line ∧ assembleLine line = some [.op i]
    else printOp i = none

/-- R55: the fields of DATA and END output words, and the four END words. -/
def Obligations.OutputWordFields : Prop :=
  (∀ d : Byte, outKind (dataW d) = false ∧ outStatus (dataW d) = 0b00 ∧ outData (dataW d) = d ∧
    (dataW d).toNat = d.toNat) ∧
  (∀ st : Status, outKind (endW st) = true ∧ outStatus (endW st) = st.code ∧ outData (endW st) = 0x00 ∧
    (endW st).toNat = 0x400 + st.code.toNat * 0x100) ∧
  endW .ok = 0x400 ∧ endW .okWrapped = 0x500 ∧ endW .invalidSymbol = 0x600 ∧ endW .overflow = 0x700

/-- R53: an END beat with any D behaves like one with D = 0x00, on both channels and in every state. -/
def Obligations.ReservedFieldIgnored : Prop :=
  ∀ (r : Byte) (s : State),
    exec (decode (.encIn (inWord true r))) s = exec (decode (.encIn (inWord true 0x00))) s ∧
    exec (decode (.decIn (inWord true r))) s = exec (decode (.decIn (inWord true 0x00))) s

/-- R12, R13, R120: a step runs the operation the moving agent offers, and an agent with nothing to offer changes
nothing but the turn. (Who moves is the model's choice: log entry 2.) -/
def Obligations.StepRunsTheOfferedOperation : Prop :=
  ∀ s : State,
    (∀ o os, s.agents[s.actor]? = some (o :: os) → step s = exec (decode o) s) ∧
    ((s.agents[s.actor]? = none ∨ s.agents[s.actor]? = some []) → step s = .next { s with turn := s.turn.tail })

/-- The host's entry (log entry 8): where a table word decodes, placing it makes the next step run it, and the
hardware's own state is as before. -/
def Obligations.PlacedTableWordRunsNext : Prop :=
  ∀ (s : State) (nbits w : Nat) (i : Instr), decodeTableWord nbits w = some i →
    step (s.withFetchWord nbits w) = exec i (s.withFetchWord nbits w) ∧
    SameEnc s (s.withFetchWord nbits w) ∧ SameDec s (s.withFetchWord nbits w) ∧
    SameParams s (s.withFetchWord nbits w) ∧ (s.withFetchWord nbits w).returned = s.returned

/-! ## alphabet_lut -/

/-- R67: the forward table, by its four runs. -/
def Obligations.ForwardTableIsTheAlphabet : Prop :=
  ∀ v : Digit, v.toNat ≤ 84 →
    (fwd v).toNat =
      (if v.toNat ≤ 9 then 0x30 + v.toNat
       else if v.toNat ≤ 35 then 0x41 + (v.toNat - 10)
       else if v.toNat ≤ 61 then 0x61 + (v.toNat - 36)
       else [0x21, 0x23, 0x24, 0x25, 0x26, 0x28, 0x29, 0x2A, 0x2B, 0x2D, 0x3B, 0x3C, 0x3D, 0x3E, 0x3F, 0x40, 0x5E,
             0x5F, 0x60, 0x7B, 0x7C, 0x7D, 0x7E].getD (v.toNat - 62) 0)

/-- R69: the two tables are inverses on the alphabet. -/
def Obligations.TablesAreInverses : Prop :=
  (∀ v : Digit, v.toNat ≤ 84 → rev (fwd v) = ⟨true, v⟩) ∧
  (∀ c : Byte, (rev c).ok = true → fwd (rev c).val = c ∧ (rev c).val.toNat ≤ 84)

/-- R72: the invalid symbols are the nine printable characters, space, the control bytes, DEL and the bytes from
0x80: 171 of the 256. -/
def Obligations.InvalidSymbolsAreThose171 : Prop :=
  (∀ c : Byte, (rev c).ok = false ↔
    (c.toNat ∈ [0x22, 0x27, 0x2C, 0x2E, 0x2F, 0x3A, 0x5B, 0x5C, 0x5D] ∨ c.toNat = 0x20 ∨ c.toNat ≤ 0x1F ∨
      c.toNat = 0x7F ∨ 0x80 ≤ c.toNat)) ∧
  ((List.range 256).filter (fun n => (rev (BitVec.ofNat 8 n)).ok == false)).length = 171

/-- R70: LUT.FWD completes in every state, gives back the table entry or (0, 0x00), and writes nothing. -/
def Obligations.LutFwdReadsTheTable : Prop :=
  ∀ (v : Digit) (s : State), ∃ t, exec (.lutFwd v) s = .next t ∧
    t.returned = s.returned ++ [if v.toNat ≤ 84 then .lutFwd true (fwd v) else .lutFwd false 0x00] ∧
    SameEnc s t ∧ SameDec s t ∧ SameParams s t ∧ Taken s t

/-- R71: LUT.REV completes in every state, gives back REV(c), (0, 0) where the byte is invalid, and writes nothing. -/
def Obligations.LutRevReadsTheTable : Prop :=
  ∀ (c : Byte) (s : State), ∃ t, exec (.lutRev c) s = .next t ∧
    t.returned = s.returned ++ [if (rev c).ok = true then .lutRev true (rev c).val else .lutRev false 0] ∧
    SameEnc s t ∧ SameDec s t ∧ SameParams s t ∧ Taken s t

/-! ## base85_encoder -/

/-- R74: the five digits of a chunk value and their symbols. Their bounds, their sum and the first symbol, never `}` or
`~`, are R74's own inferences ("[derived: from this rule and 40_alphabet_lut.md rule R67]"). -/
def Obligations.ChunkDigitsAreBase85 : Prop :=
  ∀ v : Chunk, ∃ d0 d1 d2 d3 d4 : Digit,
    encodeDigits v = [d0, d1, d2, d3, d4] ∧
    encodeSyms v = [fwd d0, fwd d1, fwd d2, fwd d3, fwd d4] ∧
    d0.toNat = v.toNat / 85 ^ 4 ∧ d1.toNat = v.toNat % 85 ^ 4 / 85 ^ 3 ∧ d2.toNat = v.toNat % 85 ^ 3 / 85 ^ 2 ∧
    d3.toNat = v.toNat % 85 ^ 2 / 85 ∧ d4.toNat = v.toNat % 85 ∧
    d0.toNat ≤ 82 ∧ d1.toNat ≤ 84 ∧ d2.toNat ≤ 84 ∧ d3.toNat ≤ 84 ∧ d4.toNat ≤ 84 ∧
    v.toNat = d0.toNat * 85 ^ 4 + d1.toNat * 85 ^ 3 + d2.toNat * 85 ^ 2 + d3.toNat * 85 + d4.toNat ∧
    fwd d0 ≠ 0x7D ∧ fwd d0 ≠ 0x7E

/-- R75: an accepted ENC.DATA beat places its byte; the fourth byte emits five words and clears the chunk. Nothing else
changes. -/
def Obligations.EncDataPlacesItsByte : Prop :=
  ∀ (b : Byte) (s : State), s.Live → 5 ≤ s.cfg.encOutqDepth - s.enc_q.length →
    ∃ t, exec (.encData b) s = .next t ∧ EncBeatFrame s t ∧
      (if s.enc_cnt.val < 3 then
        t.enc_v = s.enc_v ||| (b.setWidth 32 <<< (24 - 8 * s.enc_cnt.val)) ∧
        t.enc_cnt.val = s.enc_cnt.val + 1 ∧ t.enc_q = s.enc_q
       else
        t.enc_q = s.enc_q ++
          (encodeSyms (s.enc_v ||| (b.setWidth 32 <<< (24 - 8 * s.enc_cnt.val)))).map dataW ∧
        t.enc_v = 0 ∧ t.enc_cnt = 0)

/-- R18, R36, R60, R78: four bytes in arrival order make the big-endian chunk value, zero filled on the right while it
is being assembled, and the fourth emits its five symbols. -/
def Obligations.ChunkIsItsBytesInOrder : Prop :=
  ∀ (b0 b1 b2 b3 : Byte) (s : State), s.Live → s.EncIdle → 5 ≤ s.cfg.encOutqDepth - s.enc_q.length →
    ∃ t1 t2 t3 t4,
      exec (.encData b0) s = .next t1 ∧ t1.enc_v = be32 b0 0 0 0 ∧
      exec (.encData b1) t1 = .next t2 ∧ t2.enc_v = be32 b0 b1 0 0 ∧
      exec (.encData b2) t2 = .next t3 ∧ t3.enc_v = be32 b0 b1 b2 0 ∧
      exec (.encData b3) t3 = .next t4 ∧ t4.enc_v = 0 ∧
      t4.enc_q = s.enc_q ++ (encodeSyms (be32 b0 b1 b2 b3)).map dataW

/-- R76, R77, R82: an accepted ENC.END beat emits the first n+1 symbols of a tail of n bytes, then EndW(OK), and
clears the chunk. Nothing else changes. -/
def Obligations.EncEndEmitsTailAndOk : Prop :=
  ∀ (r : Byte) (s : State), s.Live → 5 ≤ s.cfg.encOutqDepth - s.enc_q.length →
    ∃ t, exec (.encEnd r) s = .next t ∧ EncBeatFrame s t ∧ t.enc_v = 0 ∧ t.enc_cnt = 0 ∧
      t.enc_q = s.enc_q ++
        (if s.enc_cnt.val = 0 then [] else ((encodeSyms s.enc_v).take (s.enc_cnt.val + 1)).map dataW) ++ [endW .ok]

/-- R83, R49: with fewer than 5 free slots an encoder input beat waits: its word stays offered and only the turn
passes. With 5, it is taken, adds at most 5 words and never overflows the queue. (That ready is the capacity rule
alone, and that a waiting beat is a step which passes the turn, are the model's choices: log entries 5 and 2.) -/
def Obligations.EncoderInputWaitsForRoom : Prop :=
  ∀ (i : Instr) (s : State), isEncInput i = true → s.Live →
    (s.cfg.encOutqDepth - s.enc_q.length < 5 → exec i s = .next { s with turn := s.turn.tail }) ∧
    (5 ≤ s.cfg.encOutqDepth - s.enc_q.length → ∃ t, exec i s = .next t ∧ Taken s t ∧
      t.enc_q.length ≤ s.enc_q.length + 5 ∧ t.enc_q.length ≤ t.cfg.encOutqDepth)

/-- R79: the beats of a frame, taken by an idle encoder with room, give the symbols of Encode(bytes), then EndW(OK),
and leave it idle. -/
def Obligations.EncoderFrameIsEncode : Prop :=
  ∀ (bytes : List Byte) (r : Byte) (s : State), s.Live → s.EncIdle →
    s.enc_q.length + 5 * (bytes.length / 4) + 5 ≤ s.cfg.encOutqDepth →
    ∃ t, execAll (bytes.map .encData ++ [.encEnd r]) s = .next t ∧
      t.enc_q = s.enc_q ++ (encodeBytes bytes).map dataW ++ [endW .ok] ∧ t.EncIdle ∧
      SameDec s t ∧ SameParams s t ∧ t.returned = s.returned

/-- R80: the number of symbols of a frame of L bytes (90_conflicts.md C1). -/
def Obligations.EncodedLength : Prop :=
  ∀ bytes : List Byte,
    (encodeBytes bytes).length =
      5 * (bytes.length / 4) + (if bytes.length % 4 = 0 then 0 else bytes.length % 4 + 1)

/-- R41, R136: in every run without a reset, whatever the queue depth, the pops, the waiting beats, the decoder beats
and the LUT reads between, the encoder's words are those of the input beats it took. -/
def Obligations.EncoderWordsDependOnTakenBeatsOnly : Prop :=
  ∀ (is : List Instr) (s t : State), s.Live → s.EncIdle → Instr.rst ∉ is → execAll is s = .next t →
    encSequence t = encSequence s ++ encStream [] (encTaken is s)

/-! ## base85_decoder -/

/-- R89: an accepted DEC.SPACE beat changes no state of the hardware, in the normal state and in drain. -/
def Obligations.DecSpaceChangesNothing : Prop :=
  ∀ s : State, s.Live → 4 ≤ s.cfg.decOutqDepth - s.dec_q.length →
    ∃ t, exec .decSpace s = .next t ∧ SameDec s t ∧ DecBeatFrame s t

/-- R90, R93, R94, R96: the whole of an accepted symbol beat in the normal state: the failure action for an invalid
symbol; the exact fold of a symbol that does not complete a group; at the fifth symbol the group's four bytes, most
significant first, or the overflow of the decoder's mode. -/
def Obligations.DecDataInTheNormalState : Prop :=
  ∀ (c : Byte) (s : State), s.Live → 4 ≤ s.cfg.decOutqDepth - s.dec_q.length → c ≠ 0x20 → s.dec_st.failed = false →
    let v := s.dec_acc.toNat * 85 + (rev c).val.toNat
    let words := [v / 2 ^ 24 % 256, v / 2 ^ 16 % 256, v / 2 ^ 8 % 256, v % 256].map (fun n => dataW (BitVec.ofNat 8 n))
    ∃ t, exec (.decData c) s = .next t ∧ DecBeatFrame s t ∧
      (if (rev c).ok = false then
        t.dec_st = .invalidSymbol ∧ t.dec_acc = 0 ∧ t.dec_cnt = 0 ∧ t.dec_q = s.dec_q
       else if s.dec_cnt.val < 4 then
        t.dec_st = s.dec_st ∧ t.dec_acc.toNat = v ∧ t.dec_cnt.val = s.dec_cnt.val + 1 ∧ t.dec_q = s.dec_q
       else t.dec_acc = 0 ∧ t.dec_cnt = 0 ∧
        (if v ≤ 2 ^ 32 - 1 then t.dec_st = s.dec_st ∧ t.dec_q = s.dec_q ++ words
         else if s.cfg.ovfMode = .wrap then t.dec_st = .okWrapped ∧ t.dec_q = s.dec_q ++ words
         else t.dec_st = .overflow ∧ t.dec_q = s.dec_q))

/-- R91: in drain a DEC.DATA beat is taken and ignored, whatever its byte. -/
def Obligations.DrainIgnoresSymbols : Prop :=
  ∀ (c : Byte) (s : State), s.Live → 4 ≤ s.cfg.decOutqDepth - s.dec_q.length → c ≠ 0x20 → s.dec_st.failed = true →
    ∃ t, exec (.decData c) s = .next t ∧ SameDec s t ∧ DecBeatFrame s t

/-- R92, R95, R115: DEC.END: the END word alone for a failed frame or an empty tail; else a tail of k symbols gives the
first k-1 bytes of its padded fold and the END word, or END with OVERFLOW in FAIL mode. The decoder is idle after. -/
def Obligations.DecEndEmitsTailAndStatus : Prop :=
  ∀ (r : Byte) (s : State), s.Live → 4 ≤ s.cfg.decOutqDepth - s.dec_q.length →
    let k := s.dec_cnt.val
    let v := s.dec_acc.toNat * 85 ^ (5 - k) + (85 ^ (5 - k) - 1)
    let words := ([v / 2 ^ 24 % 256, v / 2 ^ 16 % 256, v / 2 ^ 8 % 256].take (k - 1)).map
      (fun n => dataW (BitVec.ofNat 8 n))
    ∃ t, exec (.decEnd r) s = .next t ∧ DecBeatFrame s t ∧ t.DecIdle ∧
      t.dec_q = s.dec_q ++
        (if s.dec_st.failed = true ∨ k = 0 then [endW s.dec_st]
         else if v ≤ 2 ^ 32 - 1 then words ++ [endW s.dec_st]
         else if s.cfg.ovfMode = .wrap then words ++ [endW .okWrapped]
         else [endW .overflow])

/-- R95: the closed form of a padded tail is the fold of its symbols followed by copies of 84. -/
def Obligations.PaddedTailIsFoldOf84 : Prop :=
  ∀ (acc : Chunk) (k : Nat), k ≤ 4 → acc.toNat < 85 ^ k →
    (foldPadded acc (5 - k)).toNat =
      (List.replicate (5 - k) 84#7).foldl (fun a v => a * 85 + v.toNat) acc.toNat

/-- R97, R49: with fewer than 4 free slots a decoder input beat waits: its word stays offered and only the turn
passes. With 4, it is taken, adds at most 4 words and never overflows the queue. (That ready is the capacity rule
alone, and that a waiting beat is a step which passes the turn, are the model's choices: log entries 5 and 2.) -/
def Obligations.DecoderInputWaitsForRoom : Prop :=
  ∀ (i : Instr) (s : State), isDecInput i = true → s.Live →
    (s.cfg.decOutqDepth - s.dec_q.length < 4 → exec i s = .next { s with turn := s.turn.tail }) ∧
    (4 ≤ s.cfg.decOutqDepth - s.dec_q.length → ∃ t, exec i s = .next t ∧ Taken s t ∧
      t.dec_q.length ≤ s.dec_q.length + 4 ∧ t.dec_q.length ≤ t.cfg.decOutqDepth)

/-- R85: the beats of a frame, taken by an idle decoder with room, give the bytes of Decode(text) in the decoder's mode
and EndW of its status, or, where Decode fails, some void DATA words and EndW of the failure; the decoder is idle
after. -/
def Obligations.DecoderFrameIsDecode : Prop :=
  ∀ (text : List Byte) (s : State), s.Live → s.DecIdle →
    s.dec_q.length + 4 * ((text.filter (fun c => c != 0x20#8)).length / 5) + 4 ≤ s.cfg.decOutqDepth →
    ∃ t data st, execAll (decFrameInstrs text) s = .next t ∧
      t.dec_q = s.dec_q ++ data.map dataW ++ [endW st] ∧
      decodeBytes s.cfg.ovfMode text = (if st.failed = true then .failed st else .done data st) ∧ t.DecIdle ∧
      SameEnc s t ∧ SameParams s t ∧ t.returned = s.returned

/-- R41, R136: in every run without a reset, whatever the queue depth, the pops, the waiting beats, the encoder beats
and the LUT reads between, the decoder's words are those of the input beats it took, and of the mode. -/
def Obligations.DecoderWordsDependOnTakenBeatsOnly : Prop :=
  ∀ (is : List Instr) (s t : State), s.Live → s.DecIdle → Instr.rst ∉ is → execAll is s = .next t →
    decSequence t = decSequence s ++ decStream s.cfg.ovfMode [] .ok (decTaken is s)

/-- R99: for every byte sequence, decoding its encoding gives it back with status OK, in both modes. -/
def Obligations.DecodeOfEncodeIsIdentity : Prop :=
  ∀ (mode : OvfMode) (bytes : List Byte), decodeBytes mode (encodeBytes bytes) = .done bytes .ok

/-- R86, R89: an ASCII space anywhere in a text does not change what it decodes to. -/
def Obligations.SpacesDoNotChangeDecode : Prop :=
  ∀ (mode : OvfMode) (t u : List Byte), decodeBytes mode (t ++ 0x20#8 :: u) = decodeBytes mode (t ++ u)

/-- R90: a group whose first symbol is `}` (83) or `~` (84) always exceeds 2^32-1. -/
def Obligations.HighFirstSymbolOverflows : Prop :=
  ∀ (c0 c1 c2 c3 c4 : Byte), 83 ≤ (rev c0).val.toNat → 2 ^ 32 - 1 < groupFold [c0, c1, c2, c3, c4]

/-- R132, R99: an encoder frame chained to an idle decoder with room goes round trip: its DATA words give back its bytes
and its END word gives EndW(OK), in both modes. -/
def Obligations.ChainedFrameGoesRoundTrip : Prop :=
  ∀ (bytes : List Byte) (s : State), s.Live → s.DecIdle →
    s.dec_q.length + 4 * ((encodeBytes bytes).length / 5) + 4 ≤ s.cfg.decOutqDepth →
    ∃ t, execAll (((encodeBytes bytes).map dataW ++ [endW .ok]).map (fun w => decode (.decIn (chainWord w)))) s =
        .next t ∧
      t.dec_q = s.dec_q ++ bytes.map dataW ++ [endW .ok] ∧ t.DecIdle ∧ SameEnc s t ∧ SameParams s t

/-! ## Output handshakes -/

/-- R102: ENC.POP takes the head of the queue and gives it to the consumer, and nothing else changes; with an empty
queue it has no step: the consumer waits. (R102 and R103 give it no step: that the model takes one which only
passes the turn is its choice, log entry 2. A head of R57 faults: IllegalOutputWordsFault.) -/
def Obligations.EncPopTakesTheHead : Prop :=
  ∀ (w : OutWord) (q : List OutWord) (s : State), s.Live →
    (s.enc_q = w :: q → encWordLegal w = true →
      ∃ t, exec .encPop s = .next t ∧ t.enc_q = q ∧ t.returned = s.returned ++ [.encWord w] ∧
        t.enc_v = s.enc_v ∧ t.enc_cnt = s.enc_cnt ∧ SameDec s t ∧ SameParams s t ∧ Taken s t) ∧
    (s.enc_q = [] → exec .encPop s = .next { s with turn := s.turn.tail })

/-- R103: DEC.POP takes the head of the queue and gives it to the consumer, and nothing else changes; with an empty
queue it has no step: the consumer waits. (R102 and R103 give it no step: that the model takes one which only
passes the turn is its choice, log entry 2. A head of R57 faults: IllegalOutputWordsFault.) -/
def Obligations.DecPopTakesTheHead : Prop :=
  ∀ (w : OutWord) (q : List OutWord) (s : State), s.Live →
    (s.dec_q = w :: q → decWordLegal s.cfg.ovfMode w = true →
      ∃ t, exec .decPop s = .next t ∧ t.dec_q = q ∧ t.returned = s.returned ++ [.decWord w] ∧
        t.dec_acc = s.dec_acc ∧ t.dec_cnt = s.dec_cnt ∧ t.dec_st = s.dec_st ∧ SameEnc s t ∧ SameParams s t ∧
        Taken s t) ∧
    (s.dec_q = [] → exec .decPop s = .next { s with turn := s.turn.tail })

/-- R57, R121: a word that is never emitted, seen at an output, is a fault. (R57 lets a model treat it so; that it faults
when it is popped is the model's choice: log entry 10.) -/
def Obligations.IllegalOutputWordsFault : Prop :=
  ∀ (w : OutWord) (q : List OutWord) (s : State), s.Live →
    (s.enc_q = w :: q → encWordLegal w = false → exec .encPop s = .fault (.illegalOutputWord w)) ∧
    (s.dec_q = w :: q → decWordLegal s.cfg.ovfMode w = false → exec .decPop s = .fault (.illegalOutputWord w))

/-- R102, R103: an input beat and a pop of one channel at the same edge, as two steps in either order, reach the same
state. -/
def Obligations.SameEdgeBeatAndPopCommute : Prop :=
  ∀ (i : Instr) (s : State), s.Safe →
    (isEncInput i = true → s.enc_q ≠ [] → 5 ≤ s.cfg.encOutqDepth - s.enc_q.length →
      ∃ t, execAll [i, .encPop] s = .next t ∧ execAll [.encPop, i] s = .next t) ∧
    (isDecInput i = true → s.dec_q ≠ [] → 4 ≤ s.cfg.decOutqDepth - s.dec_q.length →
      ∃ t, execAll [i, .decPop] s = .next t ∧ execAll [.decPop, i] s = .next t)

/-- R49: an offered output word stays at the head of its queue until its own pop or a reset. -/
def Obligations.OutputWordHeldUntilPopped : Prop :=
  ∀ (i : Instr) (s t : State), exec i s = .next t → i ≠ .rst →
    (i ≠ .encPop → encOutValid s = true → encOutValid t = true ∧ encOutWord t = encOutWord s) ∧
    (i ≠ .decPop → decOutValid s = true → decOutValid t = true ∧ decOutWord t = decOutWord s)

/-- R108, R116, R126: popping a DATA word completes no frame and adds its byte to the open one; popping an END word
completes exactly one: its result is the bytes popped since the previous END word or reset, with the END word's status,
or, where that is a failure, the failure and no bytes. A reset neither completes nor takes back a frame and drops the
open bytes. (That the host's record of what it got is kept, with a mark per reset, is the model's choice: log
entry 3.) -/
def Obligations.FramesCompleteAtTheirEndWord : Prop :=
  ∀ s : State,
    (∀ t, exec .encPop s = .next t → s.enc_q ≠ [] →
      let st := Status.ofCode (outStatus (encOutWord s))
      if outKind (encOutWord s) = true then
        encResults t = encResults s ++ [if st.failed = true then .failed st else .done (encOpenBytes s) st] ∧
        encOpenBytes t = []
      else encResults t = encResults s ∧ encOpenBytes t = encOpenBytes s ++ [outData (encOutWord s)]) ∧
    (∀ t, exec .decPop s = .next t → s.dec_q ≠ [] →
      let st := Status.ofCode (outStatus (decOutWord s))
      if outKind (decOutWord s) = true then
        decResults t = decResults s ++ [if st.failed = true then .failed st else .done (decOpenBytes s) st] ∧
        decOpenBytes t = []
      else decResults t = decResults s ∧ decOpenBytes t = decOpenBytes s ++ [outData (decOutWord s)]) ∧
    (∀ t, exec .rst s = .next t →
      encResults t = encResults s ∧ decResults t = decResults s ∧ encOpenBytes t = [] ∧ decOpenBytes t = [])

/-! ## Reset, and before it -/

/-- R122, R113: RST works from every state: every register and queue is at its reset value, the parameters stay, no
word is emitted, and the host is left with a reset mark (the mark is the model's choice: log entry 3). While `rst` is 1
neither input is ready, and at such an edge the reset is all that happens, whatever the other pins. -/
def Obligations.RstGivesTheResetState : Prop :=
  ∀ s : State, (∃ t, exec .rst s = .next t ∧
      t.enc_v = 0 ∧ t.enc_cnt = 0 ∧ t.enc_q = [] ∧ t.dec_acc = 0 ∧ t.dec_cnt = 0 ∧ t.dec_st = .ok ∧ t.dec_q = [] ∧
      t.rstSeen = true ∧ t.cfg = s.cfg ∧ t.returned = s.returned ++ [.reset] ∧ Taken s t) ∧
    encInReady true s = false ∧ decInReady true s = false ∧
    (∀ p : PinInputs, p.rst = true → edge p s = exec .rst s)

/-- R31: the values reset leaves. -/
def Obligations.ResetStateValues : Prop :=
  State.reset.enc_v = 0x00000000 ∧ State.reset.enc_cnt = 0 ∧ State.reset.enc_q = [] ∧
  State.reset.dec_acc = 0x00000000 ∧ State.reset.dec_cnt = 0 ∧ State.reset.dec_st.code = 0b00 ∧
  State.reset.dec_q = []

/-- R8, R26: the reset state meets the invariants, queues no illegal word and has legal parameters. -/
def Obligations.ResetStateIsSafe : Prop := State.reset.Safe ∧ State.reset.cfg.Legal

/-- R121, R124: before the first reset every beat and pop faults, the stream outputs have no value, and an edge without
`rst` faults where a stream port is driven and changes nothing where none is. (The model's choice: log entry 4.) -/
def Obligations.NoBeatBeforeTheFirstReset : Prop :=
  ∀ (i : Instr) (s : State), s.rstSeen = false →
    ((onEnc i || onDec i) = true → exec i s = .fault .preReset) ∧
    (∀ rst, streamOutputs rst s = none) ∧
    (∀ p : PinInputs, p.rst = false →
      edge p s = if p.drivesStream = true then .fault .preReset else .next s)

/-- R121: in a state that breaks R26 every beat and pop faults. (R121 lists such a state as a fault outcome; that every
beat and pop of either channel faults in it is the model's choice: log entry 10.) -/
def Obligations.BrokenStatesFault : Prop :=
  ∀ (i : Instr) (s : State), s.rstSeen = true → ¬ s.Inv → (onEnc i || onDec i) = true →
    exec i s = .fault .brokenInvariant

/-- R49, R102, R103: from a safe state every rising edge, with any handshakes on all four stream ports, ends in a safe
state; the words taken are the heads the queues had before the edge. (That the encoder's word comes before the
decoder's among what the host got back is the model's choice: log entry 11.) -/
def Obligations.EveryEdgeRuns : Prop :=
  ∀ (p : PinInputs) (s : State), s.Safe → ∃ t, edge p s = .next t ∧ t.Safe ∧
    (p.rst = false →
      t.returned = s.returned ++
        (if (encOutValid s && p.enc_out_ready) = true then [.encWord (encOutWord s)] else []) ++
        (if (decOutValid s && p.dec_out_ready) = true then [.decWord (decOutWord s)] else []))

/-! ## Whole-machine rules -/

/-- R26: every step keeps the invariants. -/
def Obligations.StepKeepsInvariants : Prop :=
  ∀ s t : State, s.Inv → step s = .next t → t.Inv

/-- R57, R82, R121: from a safe state every step answers a next state, which is safe: no fault, no refusal, and no
illegal word is ever queued. -/
def Obligations.SafeStatesStepToSafeStates : Prop :=
  ∀ s : State, s.Safe → ∃ t, step s = .next t ∧ t.Safe

/-- R29, R124: no step writes the parameters, and a reset once seen stays seen. -/
def Obligations.StepKeepsParameters : Prop :=
  ∀ s t : State, step s = .next t → t.cfg = s.cfg ∧ (s.rstSeen = true → t.rstSeen = true)

/-- R42: no operation but RST changes anything of a channel that is not its own; and what an encoder operation does to
the encoder, or a decoder operation to the decoder, depends on that channel alone. -/
def Obligations.ChannelsDoNotInterfere : Prop :=
  ∀ (i : Instr) (s t : State), exec i s = .next t → i ≠ .rst →
    (onEnc i = false → SameEnc s t) ∧ (onDec i = false → SameDec s t) ∧
    (∀ s' t', exec i s' = .next t' →
      (SameEnc s s' → s'.cfg.encOutqDepth = s.cfg.encOutqDepth → SameEnc t t') ∧
      (SameDec s s' → s'.cfg.ovfMode = s.cfg.ovfMode → s'.cfg.decOutqDepth = s.cfg.decOutqDepth → SameDec t t'))

/-- R42: an encoder operation and a decoder operation reach the same channels in either order. -/
def Obligations.ChannelsInterleaveInAnyOrder : Prop :=
  ∀ (i j : Instr) (s t : State), onEnc i = true → onDec j = true → execAll [i, j] s = .next t →
    ∃ t', execAll [j, i] s = .next t' ∧ SameEnc t t' ∧ SameDec t t'

/-- R110, R112: which operations change the status, to what, and when. -/
def Obligations.StatusChangesOnlyAsTabled : Prop :=
  ∀ (i : Instr) (s t : State), exec i s = .next t → t.dec_st ≠ s.dec_st →
    (i = .rst ∧ t.dec_st = .ok) ∨ (∃ r, i = .decEnd r ∧ t.dec_st = .ok) ∨
    (∃ c, i = .decData c ∧ s.dec_st.failed = false ∧
      ((t.dec_st = .invalidSymbol ∧ (rev c).ok = false) ∨
       (t.dec_st = .overflow ∧ (rev c).ok = true ∧ s.dec_cnt.val = 4 ∧ s.cfg.ovfMode = .fail) ∨
       (t.dec_st = .okWrapped ∧ (rev c).ok = true ∧ s.dec_cnt.val = 4 ∧ s.cfg.ovfMode = .wrap)))

/-- R114, R116: while the frame has failed, no operation emits a decoder word but DEC.END, which emits the END word with
the failure's code alone. -/
def Obligations.FailedFrameEmitsItsVerdictOnly : Prop :=
  ∀ (i : Instr) (s t : State), exec i s = .next t → s.dec_st.failed = true → i ≠ .rst → i ≠ .decPop →
    (t.dec_q = s.dec_q ∧ t.dec_st = s.dec_st) ∨
    (∃ r, i = .decEnd r ∧ t.dec_q = s.dec_q ++ [endW s.dec_st] ∧ t.DecIdle)

/-- R27: an accepted END beat leaves nothing of its frame in its channel but the queued words. -/
def Obligations.EndLeavesNothingOfItsFrame : Prop :=
  ∀ (r : Byte) (s t : State),
    (exec (.encEnd r) s = .next t → encInReady false s = true → t.EncIdle) ∧
    (exec (.decEnd r) s = .next t → decInReady false s = true → t.DecIdle)

/-- R135: an operation queues at most 5 encoder words and at most 4 decoder words, appended to what was queued, unless
it is that channel's pop or RST. -/
def Obligations.BeatsAppendBoundedWords : Prop :=
  ∀ (i : Instr) (s t : State), exec i s = .next t → i ≠ .rst →
    (i ≠ .encPop → ∃ ws, t.enc_q = s.enc_q ++ ws ∧ ws.length ≤ 5) ∧
    (i ≠ .decPop → ∃ ws, t.dec_q = s.dec_q ++ ws ∧ ws.length ≤ 4)

/-! ## Programs -/

/-- R66: ENC.POPFRAME and DEC.POPFRAME repeat their pop until the popped word has K = 1, whatever joins the queue
meanwhile: a popped DATA word leaves the action to be done again, a popped END word ends it, and with an empty queue it
waits. It may wait with its pop offered already. -/
def Obligations.PopFramesPopThroughTheEndWord : Prop :=
  ∀ (w : OutWord) (q : List OutWord) (as : List Action) (r : ProgramRun), r.state.Live →
    (offerOf r.state.agents r.state.actor = none ∨ r.state.agents[r.state.actor]? = some [.encOut] →
      r.programs[r.state.actor]? = some (.encPopFrame :: as) →
      (r.state.enc_q = w :: q → encWordLegal w = true → ∃ r', runStep r = .next r' ∧ r'.state.enc_q = q ∧
        r'.state.returned = r.state.returned ++ [.encWord w] ∧
        r'.programs[r.state.actor]? = some (if outKind w = true then as else .encPopFrame :: as)) ∧
      (r.state.enc_q = [] → ∃ r', runStep r = .next r' ∧ r'.state.enc_q = [] ∧
        r'.state.returned = r.state.returned ∧ r'.programs = r.programs)) ∧
    (offerOf r.state.agents r.state.actor = none ∨ r.state.agents[r.state.actor]? = some [.decOut] →
      r.programs[r.state.actor]? = some (.decPopFrame :: as) →
      (r.state.dec_q = w :: q → decWordLegal r.state.cfg.ovfMode w = true → ∃ r', runStep r = .next r' ∧
        r'.state.dec_q = q ∧ r'.state.returned = r.state.returned ++ [.decWord w] ∧
        r'.programs[r.state.actor]? = some (if outKind w = true then as else .decPopFrame :: as)) ∧
      (r.state.dec_q = [] → ∃ r', runStep r = .next r' ∧ r'.state.dec_q = [] ∧
        r'.state.returned = r.state.returned ∧ r'.programs = r.programs))

/-- R66, R79: one agent's ENC.FRAME or DEC.FRAME, run from reset with room for it, offers one beat per byte in order and
then the END beat, each taken once, and nothing of it is left. -/
def Obligations.FrameActionsSendTheirBeats : Prop :=
  ∀ (bytes : List Byte) (cfg : Config),
    (5 * (bytes.length / 4) + 5 ≤ cfg.encOutqDepth →
      ∃ r, runSteps (bytes.length + 1) (ProgramRun.start cfg [] [[.encFrame bytes]]) = .next r ∧
        r.taken = bytes.map (fun b => .encIn (inWord false b)) ++ [.encIn 0x100] ∧ r.programs = [[]] ∧
        r.state.enc_q = (encodeBytes bytes).map dataW ++ [endW .ok]) ∧
    (4 * ((bytes.filter (fun c => c != 0x20#8)).length / 5) + 4 ≤ cfg.decOutqDepth →
      ∃ r, runSteps (bytes.length + 1) (ProgramRun.start cfg [] [[.decFrame bytes]]) = .next r ∧
        r.taken = bytes.map (fun c => .decIn (inWord false c)) ++ [.decIn 0x100] ∧ r.programs = [[]])

/-- R108: a run ends when every frame its programs started is complete and no program has an action left; and a run from
reset in which every started frame is complete, its END word popped, has nothing of a frame left in either channel,
whoever moved when. (A frame cut by a reset is not waited for: the model's choice, log entry 13.) -/
def Obligations.EndedRunLeavesNothing : Prop :=
  ∀ (k : Nat) (cfg : Config) (turn : List Nat) (programs : List (List Action)) (r : ProgramRun),
    runSteps k (ProgramRun.start cfg turn programs) = .next r →
    (r.ended = true ↔ r.framesComplete = true ∧ ∀ p ∈ r.programs, p = []) ∧
    (r.framesComplete = true → r.state.enc_q = [] ∧ r.state.EncIdle ∧ r.state.dec_q = [] ∧ r.state.DecIdle)
end

