-- ==== Sys2Proof/Laws/Operands.lean ====
section
/-! SUPPORT. Spec lemmas of the operand forms, the output words and Resolve: what each computes, in natural numbers. -/

namespace Sys2Proof.Machine

/-! ## Output words -/

@[simp] theorem outKind_dataW (d : Byte) : outKind (dataW d) = false := by
  revert d; decide

@[simp] theorem outData_dataW (d : Byte) : outData (dataW d) = d := by
  revert d; decide

@[simp] theorem outStatus_dataW (d : Byte) : outStatus (dataW d) = 0 := by
  revert d; decide

@[simp] theorem outKind_endW (st : Status) : outKind (endW st) = true := by cases st <;> decide

@[simp] theorem outData_endW (st : Status) : outData (endW st) = 0 := by cases st <;> decide

@[simp] theorem outStatus_endW (st : Status) : outStatus (endW st) = st.code := by cases st <;> decide

@[simp] theorem Status.ofCode_code (st : Status) : Status.ofCode st.code = st := by cases st <;> decide

@[simp] theorem Status.failed_ok : Status.ok.failed = false := by decide

@[simp] theorem Status.failed_okWrapped : Status.okWrapped.failed = false := by decide

@[simp] theorem Status.failed_invalidSymbol : Status.invalidSymbol.failed = true := by decide

@[simp] theorem Status.failed_overflow : Status.overflow.failed = true := by decide

@[simp] theorem statusLegal_ok (mode : OvfMode) : statusLegal mode .ok = true := by cases mode <;> decide

@[simp] theorem statusLegal_invalidSymbol (mode : OvfMode) : statusLegal mode .invalidSymbol = true := by
  cases mode <;> decide

@[simp] theorem encWordLegal_dataW (d : Byte) : encWordLegal (dataW d) = true := by simp [encWordLegal]

@[simp] theorem encWordLegal_endW (st : Status) : encWordLegal (endW st) = true ↔ st = .ok := by
  cases st <;> decide

@[simp] theorem decWordLegal_dataW (mode : OvfMode) (d : Byte) : decWordLegal mode (dataW d) = true := by
  simp [decWordLegal]

@[simp] theorem decWordLegal_endW (mode : OvfMode) (st : Status) :
    decWordLegal mode (endW st) = statusLegal mode st := by simp [decWordLegal]

/-! ## Bytes of a value -/

theorem byteAt_toNat (v : Chunk) (i : Nat) : (byteAt v i).toNat = v.toNat / 2 ^ (24 - 8 * i) % 2 ^ 8 := by
  simp [byteAt, BitVec.extractLsb'_toNat, Nat.shiftRight_eq_div_pow]

theorem be32_toNat (b0 b1 b2 b3 : Byte) :
    (be32 b0 b1 b2 b3).toNat = b0.toNat * 2 ^ 24 + b1.toNat * 2 ^ 16 + b2.toNat * 2 ^ 8 + b3.toNat := by
  have h0 := b0.isLt
  have h1 := b1.isLt
  have h2 := b2.isLt
  have h3 := b3.isLt
  simp only [be32, BitVec.toNat_ofNat]
  omega

/-- `byte` undoes `BE32` (00_scope.md R10). -/
theorem bytesOf_be32 (b0 b1 b2 b3 : Byte) : bytesOf (be32 b0 b1 b2 b3) = [b0, b1, b2, b3] := by
  have h0 := b0.isLt
  have h1 := b1.isLt
  have h2 := b2.isLt
  have h3 := b3.isLt
  simp only [bytesOf, List.cons.injEq, and_true, ← BitVec.toNat_inj, byteAt_toNat, be32_toNat]
  norm_num
  omega

/-- `BE32` undoes `byte` (00_scope.md R10). -/
theorem be32_byteAt (v : Chunk) : be32 (byteAt v 0) (byteAt v 1) (byteAt v 2) (byteAt v 3) = v := by
  have h := v.isLt
  simp only [← BitVec.toNat_inj, byteAt_toNat, be32_toNat]
  norm_num
  omega

@[simp] theorem bytesOf_length (v : Chunk) : (bytesOf v).length = 4 := rfl

/-! ## Symbols of a chunk -/

@[simp] theorem encodeDigits_length (v : Chunk) : (encodeDigits v).length = 5 := rfl

@[simp] theorem encodeSyms_length (v : Chunk) : (encodeSyms v).length = 5 := rfl

/-! ## The fold -/

/-- A fold step is exact at 33 bits while the accumulator is a group's (42_decoder.md R88). -/
theorem foldStep_toNat {acc : Chunk} (val : Digit) (h : acc.toNat < 85 ^ 4) :
    (foldStep acc val).toNat = acc.toNat * 85 + val.toNat := by
  have hv := val.isLt
  simp only [foldStep, BitVec.toNat_add, BitVec.toNat_mul, BitVec.toNat_setWidth, BitVec.toNat_ofNat]
  omega

/-- A padded fold is exact at 33 bits for a tail of `k` symbols (42_decoder.md R95). -/
theorem foldPadded_toNat {acc : Chunk} {k : Nat} (hk : k ≤ 4) (h : acc.toNat < 85 ^ k) :
    (foldPadded acc (5 - k)).toNat = acc.toNat * 85 ^ (5 - k) + (85 ^ (5 - k) - 1) := by
  have hlt : acc.toNat * 85 ^ (5 - k) + (85 ^ (5 - k) - 1) < 2 ^ 33 := by
    have h5 : 85 ^ k * 85 ^ (5 - k) = 85 ^ 5 := by rw [← Nat.pow_add]; congr 1; omega
    have hpos : 0 < 85 ^ (5 - k) := by positivity
    have hle : (acc.toNat + 1) * 85 ^ (5 - k) ≤ 85 ^ 5 := by
      rw [← h5]
      exact Nat.mul_le_mul_right _ h
    have h33 : (85 : Nat) ^ 5 < 2 ^ 33 := by norm_num
    rw [Nat.add_mul] at hle
    omega
  have ha := acc.isLt
  simp only [foldPadded, BitVec.toNat_add, BitVec.toNat_mul, BitVec.toNat_setWidth, BitVec.toNat_ofNat]
  rw [Nat.mod_eq_of_lt (a := acc.toNat) (by omega), Nat.mul_mod_mod, ← Nat.add_mod, Nat.mod_eq_of_lt hlt]

/-! ## Resolve -/

theorem resolve_of_le {t : Fold} (mode : OvfMode) (st : Status) (h : t.toNat ≤ 2 ^ 32 - 1) :
    resolve mode st t = .emit (t.setWidth 32) st := by
  have : t.toNat ≤ 0xFFFFFFFF := h
  simp [resolve, this]

theorem resolve_wrap {t : Fold} (st : Status) (h : 2 ^ 32 - 1 < t.toNat) :
    resolve .wrap st t = .emit (t.setWidth 32) .okWrapped := by
  have : ¬ t.toNat ≤ 0xFFFFFFFF := by omega
  simp [resolve, this]

theorem resolve_fail {t : Fold} (st : Status) (h : 2 ^ 32 - 1 < t.toNat) : resolve .fail st t = .overflow := by
  have : ¬ t.toNat ≤ 0xFFFFFFFF := by omega
  simp [resolve, this]

/-- Everything Resolve can answer: OVERFLOW only in FAIL mode, and a status legal in the mode. -/
theorem resolve_cases (mode : OvfMode) (st : Status) (t : Fold) :
    (resolve mode st t = .overflow ∧ mode = .fail) ∨
    (∃ st', resolve mode st t = .emit (t.setWidth 32) st' ∧ (st' = st ∨ (st' = .okWrapped ∧ mode = .wrap))) := by
  by_cases h : t.toNat ≤ 2 ^ 32 - 1
  · exact .inr ⟨st, resolve_of_le mode st h, .inl rfl⟩
  · cases mode with
    | wrap => exact .inr ⟨.okWrapped, resolve_wrap st (by omega), .inr ⟨rfl, rfl⟩⟩
    | fail => exact .inl ⟨resolve_fail st (by omega), rfl⟩

end Sys2Proof.Machine
end

