-- ==== Sys2Proof/Laws/State.lean ====
section
/-! SUPPORT. One lemma per field of the state per named update of Machine/Ops.lean, each true by rfl. -/

namespace Sys2Proof.Machine

/-! ## State.emitEnc -/

@[simp] theorem State.emitEnc_cfg (ws : List OutWord) (s : State) : (s.emitEnc ws).cfg = s.cfg := rfl
@[simp] theorem State.emitEnc_rstSeen (ws : List OutWord) (s : State) : (s.emitEnc ws).rstSeen = s.rstSeen := rfl
@[simp] theorem State.emitEnc_enc_v (ws : List OutWord) (s : State) : (s.emitEnc ws).enc_v = s.enc_v := rfl
@[simp] theorem State.emitEnc_enc_cnt (ws : List OutWord) (s : State) : (s.emitEnc ws).enc_cnt = s.enc_cnt := rfl
@[simp] theorem State.emitEnc_enc_q (ws : List OutWord) (s : State) : (s.emitEnc ws).enc_q = s.enc_q ++ ws := rfl
@[simp] theorem State.emitEnc_dec_acc (ws : List OutWord) (s : State) : (s.emitEnc ws).dec_acc = s.dec_acc := rfl
@[simp] theorem State.emitEnc_dec_cnt (ws : List OutWord) (s : State) : (s.emitEnc ws).dec_cnt = s.dec_cnt := rfl
@[simp] theorem State.emitEnc_dec_st (ws : List OutWord) (s : State) : (s.emitEnc ws).dec_st = s.dec_st := rfl
@[simp] theorem State.emitEnc_dec_q (ws : List OutWord) (s : State) : (s.emitEnc ws).dec_q = s.dec_q := rfl
@[simp] theorem State.emitEnc_agents (ws : List OutWord) (s : State) : (s.emitEnc ws).agents = s.agents := rfl
@[simp] theorem State.emitEnc_turn (ws : List OutWord) (s : State) : (s.emitEnc ws).turn = s.turn := rfl
@[simp] theorem State.emitEnc_returned (ws : List OutWord) (s : State) : (s.emitEnc ws).returned = s.returned := rfl

/-! ## State.emitDec -/

@[simp] theorem State.emitDec_cfg (ws : List OutWord) (s : State) : (s.emitDec ws).cfg = s.cfg := rfl
@[simp] theorem State.emitDec_rstSeen (ws : List OutWord) (s : State) : (s.emitDec ws).rstSeen = s.rstSeen := rfl
@[simp] theorem State.emitDec_enc_v (ws : List OutWord) (s : State) : (s.emitDec ws).enc_v = s.enc_v := rfl
@[simp] theorem State.emitDec_enc_cnt (ws : List OutWord) (s : State) : (s.emitDec ws).enc_cnt = s.enc_cnt := rfl
@[simp] theorem State.emitDec_enc_q (ws : List OutWord) (s : State) : (s.emitDec ws).enc_q = s.enc_q := rfl
@[simp] theorem State.emitDec_dec_acc (ws : List OutWord) (s : State) : (s.emitDec ws).dec_acc = s.dec_acc := rfl
@[simp] theorem State.emitDec_dec_cnt (ws : List OutWord) (s : State) : (s.emitDec ws).dec_cnt = s.dec_cnt := rfl
@[simp] theorem State.emitDec_dec_st (ws : List OutWord) (s : State) : (s.emitDec ws).dec_st = s.dec_st := rfl
@[simp] theorem State.emitDec_dec_q (ws : List OutWord) (s : State) : (s.emitDec ws).dec_q = s.dec_q ++ ws := rfl
@[simp] theorem State.emitDec_agents (ws : List OutWord) (s : State) : (s.emitDec ws).agents = s.agents := rfl
@[simp] theorem State.emitDec_turn (ws : List OutWord) (s : State) : (s.emitDec ws).turn = s.turn := rfl
@[simp] theorem State.emitDec_returned (ws : List OutWord) (s : State) : (s.emitDec ws).returned = s.returned := rfl

/-! ## State.setChunk -/

@[simp] theorem State.setChunk_cfg (v : Chunk) (n : Fin 4) (s : State) : (s.setChunk v n).cfg = s.cfg := rfl
@[simp] theorem State.setChunk_rstSeen (v : Chunk) (n : Fin 4) (s : State) : (s.setChunk v n).rstSeen = s.rstSeen := rfl
@[simp] theorem State.setChunk_enc_v (v : Chunk) (n : Fin 4) (s : State) : (s.setChunk v n).enc_v = v := rfl
@[simp] theorem State.setChunk_enc_cnt (v : Chunk) (n : Fin 4) (s : State) : (s.setChunk v n).enc_cnt = n := rfl
@[simp] theorem State.setChunk_enc_q (v : Chunk) (n : Fin 4) (s : State) : (s.setChunk v n).enc_q = s.enc_q := rfl
@[simp] theorem State.setChunk_dec_acc (v : Chunk) (n : Fin 4) (s : State) : (s.setChunk v n).dec_acc = s.dec_acc := rfl
@[simp] theorem State.setChunk_dec_cnt (v : Chunk) (n : Fin 4) (s : State) : (s.setChunk v n).dec_cnt = s.dec_cnt := rfl
@[simp] theorem State.setChunk_dec_st (v : Chunk) (n : Fin 4) (s : State) : (s.setChunk v n).dec_st = s.dec_st := rfl
@[simp] theorem State.setChunk_dec_q (v : Chunk) (n : Fin 4) (s : State) : (s.setChunk v n).dec_q = s.dec_q := rfl
@[simp] theorem State.setChunk_agents (v : Chunk) (n : Fin 4) (s : State) : (s.setChunk v n).agents = s.agents := rfl
@[simp] theorem State.setChunk_turn (v : Chunk) (n : Fin 4) (s : State) : (s.setChunk v n).turn = s.turn := rfl
@[simp] theorem State.setChunk_returned (v : Chunk) (n : Fin 4) (s : State) : (s.setChunk v n).returned = s.returned := rfl

/-! ## State.setGroup -/

@[simp] theorem State.setGroup_cfg (a : Chunk) (n : Fin 5) (s : State) : (s.setGroup a n).cfg = s.cfg := rfl
@[simp] theorem State.setGroup_rstSeen (a : Chunk) (n : Fin 5) (s : State) : (s.setGroup a n).rstSeen = s.rstSeen := rfl
@[simp] theorem State.setGroup_enc_v (a : Chunk) (n : Fin 5) (s : State) : (s.setGroup a n).enc_v = s.enc_v := rfl
@[simp] theorem State.setGroup_enc_cnt (a : Chunk) (n : Fin 5) (s : State) : (s.setGroup a n).enc_cnt = s.enc_cnt := rfl
@[simp] theorem State.setGroup_enc_q (a : Chunk) (n : Fin 5) (s : State) : (s.setGroup a n).enc_q = s.enc_q := rfl
@[simp] theorem State.setGroup_dec_acc (a : Chunk) (n : Fin 5) (s : State) : (s.setGroup a n).dec_acc = a := rfl
@[simp] theorem State.setGroup_dec_cnt (a : Chunk) (n : Fin 5) (s : State) : (s.setGroup a n).dec_cnt = n := rfl
@[simp] theorem State.setGroup_dec_st (a : Chunk) (n : Fin 5) (s : State) : (s.setGroup a n).dec_st = s.dec_st := rfl
@[simp] theorem State.setGroup_dec_q (a : Chunk) (n : Fin 5) (s : State) : (s.setGroup a n).dec_q = s.dec_q := rfl
@[simp] theorem State.setGroup_agents (a : Chunk) (n : Fin 5) (s : State) : (s.setGroup a n).agents = s.agents := rfl
@[simp] theorem State.setGroup_turn (a : Chunk) (n : Fin 5) (s : State) : (s.setGroup a n).turn = s.turn := rfl
@[simp] theorem State.setGroup_returned (a : Chunk) (n : Fin 5) (s : State) : (s.setGroup a n).returned = s.returned := rfl

/-! ## State.setStatus -/

@[simp] theorem State.setStatus_cfg (st : Status) (s : State) : (s.setStatus st).cfg = s.cfg := rfl
@[simp] theorem State.setStatus_rstSeen (st : Status) (s : State) : (s.setStatus st).rstSeen = s.rstSeen := rfl
@[simp] theorem State.setStatus_enc_v (st : Status) (s : State) : (s.setStatus st).enc_v = s.enc_v := rfl
@[simp] theorem State.setStatus_enc_cnt (st : Status) (s : State) : (s.setStatus st).enc_cnt = s.enc_cnt := rfl
@[simp] theorem State.setStatus_enc_q (st : Status) (s : State) : (s.setStatus st).enc_q = s.enc_q := rfl
@[simp] theorem State.setStatus_dec_acc (st : Status) (s : State) : (s.setStatus st).dec_acc = s.dec_acc := rfl
@[simp] theorem State.setStatus_dec_cnt (st : Status) (s : State) : (s.setStatus st).dec_cnt = s.dec_cnt := rfl
@[simp] theorem State.setStatus_dec_st (st : Status) (s : State) : (s.setStatus st).dec_st = st := rfl
@[simp] theorem State.setStatus_dec_q (st : Status) (s : State) : (s.setStatus st).dec_q = s.dec_q := rfl
@[simp] theorem State.setStatus_agents (st : Status) (s : State) : (s.setStatus st).agents = s.agents := rfl
@[simp] theorem State.setStatus_turn (st : Status) (s : State) : (s.setStatus st).turn = s.turn := rfl
@[simp] theorem State.setStatus_returned (st : Status) (s : State) : (s.setStatus st).returned = s.returned := rfl

/-! ## State.dropEnc -/

@[simp] theorem State.dropEnc_cfg (s : State) : s.dropEnc.cfg = s.cfg := rfl
@[simp] theorem State.dropEnc_rstSeen (s : State) : s.dropEnc.rstSeen = s.rstSeen := rfl
@[simp] theorem State.dropEnc_enc_v (s : State) : s.dropEnc.enc_v = s.enc_v := rfl
@[simp] theorem State.dropEnc_enc_cnt (s : State) : s.dropEnc.enc_cnt = s.enc_cnt := rfl
@[simp] theorem State.dropEnc_enc_q (s : State) : s.dropEnc.enc_q = s.enc_q.tail := rfl
@[simp] theorem State.dropEnc_dec_acc (s : State) : s.dropEnc.dec_acc = s.dec_acc := rfl
@[simp] theorem State.dropEnc_dec_cnt (s : State) : s.dropEnc.dec_cnt = s.dec_cnt := rfl
@[simp] theorem State.dropEnc_dec_st (s : State) : s.dropEnc.dec_st = s.dec_st := rfl
@[simp] theorem State.dropEnc_dec_q (s : State) : s.dropEnc.dec_q = s.dec_q := rfl
@[simp] theorem State.dropEnc_agents (s : State) : s.dropEnc.agents = s.agents := rfl
@[simp] theorem State.dropEnc_turn (s : State) : s.dropEnc.turn = s.turn := rfl
@[simp] theorem State.dropEnc_returned (s : State) : s.dropEnc.returned = s.returned := rfl

/-! ## State.dropDec -/

@[simp] theorem State.dropDec_cfg (s : State) : s.dropDec.cfg = s.cfg := rfl
@[simp] theorem State.dropDec_rstSeen (s : State) : s.dropDec.rstSeen = s.rstSeen := rfl
@[simp] theorem State.dropDec_enc_v (s : State) : s.dropDec.enc_v = s.enc_v := rfl
@[simp] theorem State.dropDec_enc_cnt (s : State) : s.dropDec.enc_cnt = s.enc_cnt := rfl
@[simp] theorem State.dropDec_enc_q (s : State) : s.dropDec.enc_q = s.enc_q := rfl
@[simp] theorem State.dropDec_dec_acc (s : State) : s.dropDec.dec_acc = s.dec_acc := rfl
@[simp] theorem State.dropDec_dec_cnt (s : State) : s.dropDec.dec_cnt = s.dec_cnt := rfl
@[simp] theorem State.dropDec_dec_st (s : State) : s.dropDec.dec_st = s.dec_st := rfl
@[simp] theorem State.dropDec_dec_q (s : State) : s.dropDec.dec_q = s.dec_q.tail := rfl
@[simp] theorem State.dropDec_agents (s : State) : s.dropDec.agents = s.agents := rfl
@[simp] theorem State.dropDec_turn (s : State) : s.dropDec.turn = s.turn := rfl
@[simp] theorem State.dropDec_returned (s : State) : s.dropDec.returned = s.returned := rfl

/-! ## State.give -/

@[simp] theorem State.give_cfg (r : Returned) (s : State) : (s.give r).cfg = s.cfg := rfl
@[simp] theorem State.give_rstSeen (r : Returned) (s : State) : (s.give r).rstSeen = s.rstSeen := rfl
@[simp] theorem State.give_enc_v (r : Returned) (s : State) : (s.give r).enc_v = s.enc_v := rfl
@[simp] theorem State.give_enc_cnt (r : Returned) (s : State) : (s.give r).enc_cnt = s.enc_cnt := rfl
@[simp] theorem State.give_enc_q (r : Returned) (s : State) : (s.give r).enc_q = s.enc_q := rfl
@[simp] theorem State.give_dec_acc (r : Returned) (s : State) : (s.give r).dec_acc = s.dec_acc := rfl
@[simp] theorem State.give_dec_cnt (r : Returned) (s : State) : (s.give r).dec_cnt = s.dec_cnt := rfl
@[simp] theorem State.give_dec_st (r : Returned) (s : State) : (s.give r).dec_st = s.dec_st := rfl
@[simp] theorem State.give_dec_q (r : Returned) (s : State) : (s.give r).dec_q = s.dec_q := rfl
@[simp] theorem State.give_agents (r : Returned) (s : State) : (s.give r).agents = s.agents := rfl
@[simp] theorem State.give_turn (r : Returned) (s : State) : (s.give r).turn = s.turn := rfl
@[simp] theorem State.give_returned (r : Returned) (s : State) : (s.give r).returned = s.returned ++ [r] := rfl

/-! ## State.resetRegs -/

@[simp] theorem State.resetRegs_cfg (s : State) : s.resetRegs.cfg = s.cfg := rfl
@[simp] theorem State.resetRegs_rstSeen (s : State) : s.resetRegs.rstSeen = true := rfl
@[simp] theorem State.resetRegs_enc_v (s : State) : s.resetRegs.enc_v = 0 := rfl
@[simp] theorem State.resetRegs_enc_cnt (s : State) : s.resetRegs.enc_cnt = 0 := rfl
@[simp] theorem State.resetRegs_enc_q (s : State) : s.resetRegs.enc_q = [] := rfl
@[simp] theorem State.resetRegs_dec_acc (s : State) : s.resetRegs.dec_acc = 0 := rfl
@[simp] theorem State.resetRegs_dec_cnt (s : State) : s.resetRegs.dec_cnt = 0 := rfl
@[simp] theorem State.resetRegs_dec_st (s : State) : s.resetRegs.dec_st = .ok := rfl
@[simp] theorem State.resetRegs_dec_q (s : State) : s.resetRegs.dec_q = [] := rfl
@[simp] theorem State.resetRegs_agents (s : State) : s.resetRegs.agents = s.agents := rfl
@[simp] theorem State.resetRegs_turn (s : State) : s.resetRegs.turn = s.turn := rfl
@[simp] theorem State.resetRegs_returned (s : State) : s.resetRegs.returned = s.returned := rfl

/-! ## State.pass -/

@[simp] theorem State.pass_cfg (s : State) : s.pass.cfg = s.cfg := rfl
@[simp] theorem State.pass_rstSeen (s : State) : s.pass.rstSeen = s.rstSeen := rfl
@[simp] theorem State.pass_enc_v (s : State) : s.pass.enc_v = s.enc_v := rfl
@[simp] theorem State.pass_enc_cnt (s : State) : s.pass.enc_cnt = s.enc_cnt := rfl
@[simp] theorem State.pass_enc_q (s : State) : s.pass.enc_q = s.enc_q := rfl
@[simp] theorem State.pass_dec_acc (s : State) : s.pass.dec_acc = s.dec_acc := rfl
@[simp] theorem State.pass_dec_cnt (s : State) : s.pass.dec_cnt = s.dec_cnt := rfl
@[simp] theorem State.pass_dec_st (s : State) : s.pass.dec_st = s.dec_st := rfl
@[simp] theorem State.pass_dec_q (s : State) : s.pass.dec_q = s.dec_q := rfl
@[simp] theorem State.pass_agents (s : State) : s.pass.agents = s.agents := rfl
@[simp] theorem State.pass_turn (s : State) : s.pass.turn = s.turn.tail := rfl
@[simp] theorem State.pass_returned (s : State) : s.pass.returned = s.returned := rfl

/-! ## State.retire -/

@[simp] theorem State.retire_cfg (s : State) : s.retire.cfg = s.cfg := rfl
@[simp] theorem State.retire_rstSeen (s : State) : s.retire.rstSeen = s.rstSeen := rfl
@[simp] theorem State.retire_enc_v (s : State) : s.retire.enc_v = s.enc_v := rfl
@[simp] theorem State.retire_enc_cnt (s : State) : s.retire.enc_cnt = s.enc_cnt := rfl
@[simp] theorem State.retire_enc_q (s : State) : s.retire.enc_q = s.enc_q := rfl
@[simp] theorem State.retire_dec_acc (s : State) : s.retire.dec_acc = s.dec_acc := rfl
@[simp] theorem State.retire_dec_cnt (s : State) : s.retire.dec_cnt = s.dec_cnt := rfl
@[simp] theorem State.retire_dec_st (s : State) : s.retire.dec_st = s.dec_st := rfl
@[simp] theorem State.retire_dec_q (s : State) : s.retire.dec_q = s.dec_q := rfl
@[simp] theorem State.retire_agents (s : State) : s.retire.agents = s.agents.modify s.actor List.tail := rfl
@[simp] theorem State.retire_turn (s : State) : s.retire.turn = s.turn.tail := rfl
@[simp] theorem State.retire_returned (s : State) : s.retire.returned = s.returned := rfl

/-! ## placeOffer -/

@[simp] theorem placeOffer_cfg (o : Offer) (s : State) : (placeOffer o s).cfg = s.cfg := rfl
@[simp] theorem placeOffer_rstSeen (o : Offer) (s : State) : (placeOffer o s).rstSeen = s.rstSeen := rfl
@[simp] theorem placeOffer_enc_v (o : Offer) (s : State) : (placeOffer o s).enc_v = s.enc_v := rfl
@[simp] theorem placeOffer_enc_cnt (o : Offer) (s : State) : (placeOffer o s).enc_cnt = s.enc_cnt := rfl
@[simp] theorem placeOffer_enc_q (o : Offer) (s : State) : (placeOffer o s).enc_q = s.enc_q := rfl
@[simp] theorem placeOffer_dec_acc (o : Offer) (s : State) : (placeOffer o s).dec_acc = s.dec_acc := rfl
@[simp] theorem placeOffer_dec_cnt (o : Offer) (s : State) : (placeOffer o s).dec_cnt = s.dec_cnt := rfl
@[simp] theorem placeOffer_dec_st (o : Offer) (s : State) : (placeOffer o s).dec_st = s.dec_st := rfl
@[simp] theorem placeOffer_dec_q (o : Offer) (s : State) : (placeOffer o s).dec_q = s.dec_q := rfl
@[simp] theorem placeOffer_agents (o : Offer) (s : State) : (placeOffer o s).agents = putOffer o s.actor s.agents := rfl
@[simp] theorem placeOffer_turn (o : Offer) (s : State) : (placeOffer o s).turn = s.turn := rfl
@[simp] theorem placeOffer_returned (o : Offer) (s : State) : (placeOffer o s).returned = s.returned := rfl

/-! ## Failure entry and return -/

@[simp] theorem failFrame_cfg (e : Status) (s : State) : (failFrame e s).cfg = s.cfg := rfl
@[simp] theorem failFrame_rstSeen (e : Status) (s : State) : (failFrame e s).rstSeen = s.rstSeen := rfl
@[simp] theorem failFrame_enc_v (e : Status) (s : State) : (failFrame e s).enc_v = s.enc_v := rfl
@[simp] theorem failFrame_enc_cnt (e : Status) (s : State) : (failFrame e s).enc_cnt = s.enc_cnt := rfl
@[simp] theorem failFrame_enc_q (e : Status) (s : State) : (failFrame e s).enc_q = s.enc_q := rfl
@[simp] theorem failFrame_dec_acc (e : Status) (s : State) : (failFrame e s).dec_acc = 0 := rfl
@[simp] theorem failFrame_dec_cnt (e : Status) (s : State) : (failFrame e s).dec_cnt = 0 := rfl
@[simp] theorem failFrame_dec_st (e : Status) (s : State) : (failFrame e s).dec_st = e := rfl
@[simp] theorem failFrame_dec_q (e : Status) (s : State) : (failFrame e s).dec_q = s.dec_q := rfl
@[simp] theorem failFrame_agents (e : Status) (s : State) : (failFrame e s).agents = s.agents := rfl
@[simp] theorem failFrame_turn (e : Status) (s : State) : (failFrame e s).turn = s.turn := rfl
@[simp] theorem failFrame_returned (e : Status) (s : State) : (failFrame e s).returned = s.returned := rfl

@[simp] theorem endFrame_cfg (s : State) : (endFrame s).cfg = s.cfg := rfl
@[simp] theorem endFrame_rstSeen (s : State) : (endFrame s).rstSeen = s.rstSeen := rfl
@[simp] theorem endFrame_enc_v (s : State) : (endFrame s).enc_v = s.enc_v := rfl
@[simp] theorem endFrame_enc_cnt (s : State) : (endFrame s).enc_cnt = s.enc_cnt := rfl
@[simp] theorem endFrame_enc_q (s : State) : (endFrame s).enc_q = s.enc_q := rfl
@[simp] theorem endFrame_dec_acc (s : State) : (endFrame s).dec_acc = 0 := rfl
@[simp] theorem endFrame_dec_cnt (s : State) : (endFrame s).dec_cnt = 0 := rfl
@[simp] theorem endFrame_dec_st (s : State) : (endFrame s).dec_st = .ok := rfl
@[simp] theorem endFrame_dec_q (s : State) : (endFrame s).dec_q = s.dec_q := rfl
@[simp] theorem endFrame_agents (s : State) : (endFrame s).agents = s.agents := rfl
@[simp] theorem endFrame_turn (s : State) : (endFrame s).turn = s.turn := rfl
@[simp] theorem endFrame_returned (s : State) : (endFrame s).returned = s.returned := rfl

/-! ## The moving agent -/

@[simp] theorem State.actor_nil (s : State) (h : s.turn = []) : s.actor = 0 := by simp [State.actor, h]

@[simp] theorem State.actor_cons (s : State) (n : Nat) (ns : List Nat) (h : s.turn = n :: ns) : s.actor = n := by
  simp [State.actor, h]

@[simp] theorem placeOffer_actor (o : Offer) (s : State) : (placeOffer o s).actor = s.actor := rfl

end Sys2Proof.Machine
end

