-- ==== Sys2Proof/Laws/Ops.lean ====
section
/-! SUPPORT. Spec lemmas of the shared operations of Machine/Ops.lean: when each runs, waits or faults, and everything
it can do. -/

namespace Sys2Proof.Machine

/-! ## Ready -/

theorem encInReady_iff (s : State) : encInReady false s = true ↔ s.enc_q.length + 5 ≤ s.cfg.encOutqDepth := by
  simp [encInReady]
  omega

theorem decInReady_iff (s : State) : decInReady false s = true ↔ s.dec_q.length + 4 ≤ s.cfg.decOutqDepth := by
  simp [decInReady]
  omega

/-! ## Guards -/

theorem guarded_of_live {s : State} (r : Result) (h : s.rstSeen = true) (hi : s.Inv) : guarded s r = r := by
  rw [guarded, if_pos h, if_pos hi]

theorem guarded_preReset {s : State} (r : Result) (h : s.rstSeen = false) : guarded s r = .fault .preReset := by
  simp [guarded, h]

theorem guarded_broken {s : State} (r : Result) (h : s.rstSeen = true) (hi : ¬ s.Inv) :
    guarded s r = .fault .brokenInvariant := by
  rw [guarded, if_pos h, if_neg hi]

/-- A guarded operation answers a next state only in a live state, and then what it guards. -/
theorem guarded_next {s t : State} {r : Result} (h : guarded s r = .next t) :
    s.rstSeen = true ∧ s.Inv ∧ r = .next t := by
  unfold guarded at h
  split at h
  · split at h
    · exact ⟨‹_›, ‹_›, h⟩
    · cases h
  · cases h

/-! ## Input beats -/

theorem encBeat_taken (f : State → State) {s : State} (h : s.rstSeen = true) (hi : s.Inv)
    (hr : s.enc_q.length + 5 ≤ s.cfg.encOutqDepth) : encBeat f s = .next (f s).retire := by
  rw [encBeat, guarded_of_live _ h hi, if_pos ((encInReady_iff s).2 hr)]

theorem encBeat_waits (f : State → State) {s : State} (h : s.rstSeen = true) (hi : s.Inv)
    (hr : ¬ s.enc_q.length + 5 ≤ s.cfg.encOutqDepth) : encBeat f s = .next s.pass := by
  rw [encBeat, guarded_of_live _ h hi, if_neg (fun hc => hr ((encInReady_iff s).1 hc))]

/-- Everything a beat on `enc_in` can do when it answers a next state. -/
theorem encBeat_next {f : State → State} {s t : State} (h : encBeat f s = .next t) :
    s.rstSeen = true ∧ s.Inv ∧
      ((s.enc_q.length + 5 ≤ s.cfg.encOutqDepth ∧ t = (f s).retire) ∨
       (¬ s.enc_q.length + 5 ≤ s.cfg.encOutqDepth ∧ t = s.pass)) := by
  obtain ⟨h1, h2, h3⟩ := guarded_next h
  refine ⟨h1, h2, ?_⟩
  split at h3 <;> rename_i hr <;> rw [encInReady_iff] at hr <;> cases h3
  · exact .inl ⟨hr, rfl⟩
  · exact .inr ⟨hr, rfl⟩

theorem decBeat_taken (f : State → State) {s : State} (h : s.rstSeen = true) (hi : s.Inv)
    (hr : s.dec_q.length + 4 ≤ s.cfg.decOutqDepth) : decBeat f s = .next (f s).retire := by
  rw [decBeat, guarded_of_live _ h hi, if_pos ((decInReady_iff s).2 hr)]

theorem decBeat_waits (f : State → State) {s : State} (h : s.rstSeen = true) (hi : s.Inv)
    (hr : ¬ s.dec_q.length + 4 ≤ s.cfg.decOutqDepth) : decBeat f s = .next s.pass := by
  rw [decBeat, guarded_of_live _ h hi, if_neg (fun hc => hr ((decInReady_iff s).1 hc))]

/-- Everything a beat on `dec_in` can do when it answers a next state. -/
theorem decBeat_next {f : State → State} {s t : State} (h : decBeat f s = .next t) :
    s.rstSeen = true ∧ s.Inv ∧
      ((s.dec_q.length + 4 ≤ s.cfg.decOutqDepth ∧ t = (f s).retire) ∨
       (¬ s.dec_q.length + 4 ≤ s.cfg.decOutqDepth ∧ t = s.pass)) := by
  obtain ⟨h1, h2, h3⟩ := guarded_next h
  refine ⟨h1, h2, ?_⟩
  split at h3 <;> rename_i hr <;> rw [decInReady_iff] at hr <;> cases h3
  · exact .inl ⟨hr, rfl⟩
  · exact .inr ⟨hr, rfl⟩

/-- A guarded operation faults for one of the two reasons of its own, or as what it guards faults in a live state. -/
theorem guarded_fault {s : State} {r : Result} {e : Fault} (h : guarded s r = .fault e) :
    (s.rstSeen = false ∧ e = .preReset) ∨ (s.rstSeen = true ∧ ¬ s.Inv ∧ e = .brokenInvariant) ∨
      (s.rstSeen = true ∧ s.Inv ∧ r = .fault e) := by
  unfold guarded at h
  split at h
  · split at h
    · exact .inr (.inr ⟨‹_›, ‹_›, h⟩)
    · cases h
      exact .inr (.inl ⟨‹_›, ‹_›, rfl⟩)
  · cases h
    exact .inl ⟨Bool.not_eq_true _ ▸ ‹_›, rfl⟩

/-! ## The agents -/

/-- The offer put for an agent is the one it offers. -/
theorem offerOf_putOffer (o : Offer) (n : Nat) (agents : List (List Offer)) :
    offerOf (putOffer o n agents) n = some o := by
  induction n generalizing agents with
  | zero => cases agents <;> rfl
  | succ n ih =>
    cases agents with
    | nil => simpa [putOffer, offerOf] using ih []
    | cons a as => simpa [putOffer, offerOf] using ih as

/-- An offer put for one agent changes what no other agent offers. -/
theorem offerOf_putOffer_ne (o : Offer) {n m : Nat} (h : m ≠ n) (agents : List (List Offer)) :
    offerOf (putOffer o n agents) m = offerOf agents m := by
  induction n generalizing agents m with
  | zero =>
    obtain ⟨m, rfl⟩ := Nat.exists_eq_succ_of_ne_zero h
    cases agents <;> rfl
  | succ n ih =>
    cases m with
    | zero => cases agents <;> rfl
    | succ m =>
      have hm : m ≠ n := fun e => h (by rw [e])
      cases agents with
      | nil => simpa [putOffer, offerOf] using ih hm []
      | cons a as => simpa [putOffer, offerOf] using ih hm as

theorem fetch_placeOffer (o : Offer) (s : State) : fetch (placeOffer o s) = some (decode o) := by
  simp [fetch, placeOffer_actor, offerOf_putOffer]

/-! ## The invariants do not look at the host's side -/

theorem State.pass_inv (s : State) : s.pass.Inv ↔ s.Inv := Iff.rfl

theorem State.retire_inv (s : State) : s.retire.Inv ↔ s.Inv := Iff.rfl

theorem State.give_inv (r : Returned) (s : State) : (s.give r).Inv ↔ s.Inv := Iff.rfl

end Sys2Proof.Machine
end

