-- ==== Sys2Proof/Laws/Effects.lean ====
section
/-! SUPPORT. Spec lemmas of the beats' effects and of the pops: everything each can do to the fields it writes, and the
fields it leaves. -/

namespace Sys2Proof.Machine

/-! ## Frames -/

theorem encDataEffect_frame (d : Byte) (s : State) : EncBeatFrame s (encDataEffect d s).retire := by
  unfold encDataEffect
  split <;> exact ⟨⟨rfl, rfl, rfl, rfl⟩, ⟨rfl, rfl⟩, rfl, rfl, rfl⟩

theorem encEndEffect_frame (s : State) : EncBeatFrame s (encEndEffect s).retire :=
  ⟨⟨rfl, rfl, rfl, rfl⟩, ⟨rfl, rfl⟩, rfl, rfl, rfl⟩

theorem completeGroup_frame (t : Fold) (s : State) : DecBeatFrame s (completeGroup t s).retire := by
  unfold completeGroup
  split <;> exact ⟨⟨rfl, rfl, rfl⟩, ⟨rfl, rfl⟩, rfl, rfl, rfl⟩

theorem decDataEffect_frame (c : Byte) (s : State) : DecBeatFrame s (decDataEffect c s).retire := by
  unfold decDataEffect decSymbolEffect
  split
  · exact ⟨⟨rfl, rfl, rfl⟩, ⟨rfl, rfl⟩, rfl, rfl, rfl⟩
  · split
    · split
      · exact ⟨⟨rfl, rfl, rfl⟩, ⟨rfl, rfl⟩, rfl, rfl, rfl⟩
      · exact completeGroup_frame _ s
    · exact ⟨⟨rfl, rfl, rfl⟩, ⟨rfl, rfl⟩, rfl, rfl, rfl⟩

theorem decEndEffect_frame (s : State) : DecBeatFrame s (decEndEffect s).retire :=
  ⟨⟨rfl, rfl, rfl⟩, ⟨rfl, rfl⟩, rfl, rfl, rfl⟩

/-! ## What the encoder's effects write -/

/-- The two cases of an accepted ENC.DATA beat (41_encoder.md R75). -/
theorem encDataEffect_cases (d : Byte) (s : State) :
    (s.enc_cnt.val < 3 ∧
      encDataEffect d s = s.setChunk (placeByte s.enc_v s.enc_cnt.val d) (s.enc_cnt + 1)) ∨
    (s.enc_cnt.val = 3 ∧
      encDataEffect d s = (s.emitEnc ((encodeSyms (placeByte s.enc_v 3 d)).map dataW)).setChunk 0 0) := by
  have hlt := s.enc_cnt.isLt
  by_cases h : s.enc_cnt.val < 3
  · exact .inl ⟨h, by simp only [encDataEffect, if_pos h]⟩
  · have h3 : s.enc_cnt.val = 3 := by omega
    exact .inr ⟨h3, by simp only [encDataEffect, if_neg h]; rw [h3]⟩

theorem encTail_length (s : State) : (encTail s).length ≤ 4 := by
  have := s.enc_cnt.isLt
  unfold encTail
  split
  · simp
  · simp only [List.length_map, List.length_take, encodeSyms_length]
    omega

/-- Within R26 the byte slots from `enc_cnt` on are zero, so placing a byte adds it (41_encoder.md R75). -/
theorem placeByte_toNat {v : Chunk} {c : Nat} (b : Byte) (hc : c < 4) (h : v.toNat % 2 ^ (32 - 8 * c) = 0) :
    (placeByte v c b).toNat = v.toNat + b.toNat * 2 ^ (24 - 8 * c) := by
  have hb := b.isLt
  have hv := v.isLt
  have hpow : 2 ^ (32 - 8 * c) = 2 ^ 8 * 2 ^ (24 - 8 * c) := by
    rw [← Nat.pow_add]
    congr 1
    omega
  have hlt : b.toNat * 2 ^ (24 - 8 * c) < 2 ^ (32 - 8 * c) := by
    rw [hpow]
    exact Nat.mul_lt_mul_of_pos_right hb (by positivity)
  have h32 : 2 ^ (32 - 8 * c) ≤ 2 ^ 32 := Nat.pow_le_pow_right (by norm_num) (by omega)
  have hsh : (b.setWidth 32 <<< (24 - 8 * c)).toNat = b.toNat * 2 ^ (24 - 8 * c) := by
    rw [BitVec.toNat_shiftLeft, BitVec.toNat_setWidth, Nat.shiftLeft_eq, Nat.mod_eq_of_lt (a := b.toNat) (by omega),
      Nat.mod_eq_of_lt (by omega)]
  rw [placeByte, BitVec.toNat_or, hsh]
  obtain ⟨q, hq⟩ := Nat.dvd_of_mod_eq_zero h
  rw [hq, Nat.two_pow_add_eq_or_of_lt hlt]

/-! ## What the decoder's effects write -/

/-- The fold of an accepted symbol within R26 is exact (42_decoder.md R88). -/
theorem foldStep_of_inv {s : State} (hi : s.Inv) (val : Digit) :
    (foldStep s.dec_acc val).toNat = s.dec_acc.toNat * 85 + val.toNat := by
  have hlt := s.dec_cnt.isLt
  have h : s.dec_acc.toNat < 85 ^ 4 :=
    Nat.lt_of_lt_of_le hi.2.1 (Nat.pow_le_pow_right (by norm_num) (by omega))
  exact foldStep_toNat val h

/-- The padded fold of a tail within R26 is exact (42_decoder.md R95). -/
theorem foldPadded_of_inv {s : State} (hi : s.Inv) :
    (foldPadded s.dec_acc (5 - s.dec_cnt.val)).toNat =
      s.dec_acc.toNat * 85 ^ (5 - s.dec_cnt.val) + (85 ^ (5 - s.dec_cnt.val) - 1) :=
  foldPadded_toNat (by have := s.dec_cnt.isLt; omega) hi.2.1

theorem decDataEffect_drain {s : State} (c : Byte) (h : s.dec_st.failed = true) : decDataEffect c s = s := by
  simp [decDataEffect, h]

theorem decDataEffect_invalid {s : State} {c : Byte} (h : s.dec_st.failed = false) (hc : (rev c).ok = false) :
    decDataEffect c s = failFrame .invalidSymbol s := by
  simp [decDataEffect, decSymbolEffect, h, hc]

theorem decDataEffect_fold {s : State} {c : Byte} (h : s.dec_st.failed = false) (hc : (rev c).ok = true)
    (hk : s.dec_cnt.val < 4) :
    decDataEffect c s = s.setGroup ((foldStep s.dec_acc (rev c).val).setWidth 32) (s.dec_cnt + 1) := by
  simp [decDataEffect, decSymbolEffect, h, hc, hk]

theorem decDataEffect_group {s : State} {c : Byte} (h : s.dec_st.failed = false) (hc : (rev c).ok = true)
    (hk : s.dec_cnt.val = 4) : decDataEffect c s = completeGroup (foldStep s.dec_acc (rev c).val) s := by
  simp [decDataEffect, decSymbolEffect, h, hc, hk]

/-- The two cases of CompleteGroup (42_decoder.md R94). -/
theorem completeGroup_cases (t : Fold) (s : State) :
    (completeGroup t s = failFrame .overflow s ∧ s.cfg.ovfMode = .fail) ∨
    (∃ st, completeGroup t s = ((s.emitDec ((bytesOf (t.setWidth 32)).map dataW)).setStatus st).setGroup 0 0 ∧
      (st = s.dec_st ∨ (st = .okWrapped ∧ s.cfg.ovfMode = .wrap))) := by
  rcases resolve_cases s.cfg.ovfMode s.dec_st t with ⟨h, hm⟩ | ⟨st, h, hst⟩
  · exact .inl ⟨by simp [completeGroup, h], hm⟩
  · exact .inr ⟨st, by simp [completeGroup, h], hst⟩

/-- The two cases of CompleteTail (42_decoder.md R95). -/
theorem tailWords_cases (s : State) :
    (tailWords s = [endW .overflow] ∧ s.cfg.ovfMode = .fail) ∨
    (∃ st, tailWords s =
        ((bytesOf ((foldPadded s.dec_acc (5 - s.dec_cnt.val)).setWidth 32)).take (s.dec_cnt.val - 1)).map dataW ++
          [endW st] ∧
      (st = s.dec_st ∨ (st = .okWrapped ∧ s.cfg.ovfMode = .wrap))) := by
  rcases resolve_cases s.cfg.ovfMode s.dec_st (foldPadded s.dec_acc (5 - s.dec_cnt.val)) with ⟨h, hm⟩ | ⟨st, h, hst⟩
  · exact .inl ⟨by simp [tailWords, h], hm⟩
  · exact .inr ⟨st, by simp [tailWords, h], hst⟩

theorem tailWords_length (s : State) : (tailWords s).length ≤ 4 := by
  have := s.dec_cnt.isLt
  rcases tailWords_cases s with ⟨h, -⟩ | ⟨st, h, -⟩ <;> rw [h] <;> simp
  omega

/-! ## Pops -/

/-- Everything ENC.POP can do when it answers a next state (43_stream_control.md R102). -/
theorem execEncPop_next {s t : State} (h : execEncPop s = .next t) :
    s.rstSeen = true ∧ s.Inv ∧
      ((∃ w q, s.enc_q = w :: q ∧ encWordLegal w = true ∧ t = (s.dropEnc.give (.encWord w)).retire) ∨
       (s.enc_q = [] ∧ t = s.pass)) := by
  obtain ⟨h1, h2, h3⟩ := guarded_next h
  refine ⟨h1, h2, ?_⟩
  cases hq : s.enc_q with
  | nil =>
    simp [encOutValid, hq] at h3
    exact .inr ⟨rfl, h3.symm⟩
  | cons w q =>
    simp [encOutValid, encOutWord, hq] at h3
    split at h3 <;> cases h3
    exact .inl ⟨w, q, rfl, ‹_›, rfl⟩

/-- Everything DEC.POP can do when it answers a next state (43_stream_control.md R103). -/
theorem execDecPop_next {s t : State} (h : execDecPop s = .next t) :
    s.rstSeen = true ∧ s.Inv ∧
      ((∃ w q, s.dec_q = w :: q ∧ decWordLegal s.cfg.ovfMode w = true ∧
          t = (s.dropDec.give (.decWord w)).retire) ∨
       (s.dec_q = [] ∧ t = s.pass)) := by
  obtain ⟨h1, h2, h3⟩ := guarded_next h
  refine ⟨h1, h2, ?_⟩
  cases hq : s.dec_q with
  | nil =>
    simp [decOutValid, hq] at h3
    exact .inr ⟨rfl, h3.symm⟩
  | cons w q =>
    simp [decOutValid, decOutWord, hq] at h3
    split at h3 <;> cases h3
    exact .inl ⟨w, q, rfl, ‹_›, rfl⟩

end Sys2Proof.Machine
end

