-- ==== Sys2Proof/Laws/PerInstr.lean ====
section
/-! SUPPORT. Statements about each operation as syntax. The family OpcodeRow: the word or handshake an operation is
made by is one its own row of the opcode table selects (spec 30_encoding.md R62). -/

namespace Sys2Proof.Laws.OpcodeRow

/-- The row of a well-formed operation selects the offer it is made by. -/
def Statement (i : Instr) : Prop := i.WellFormed → (opcodeRow i).selects (encode i) = true

theorem encData (d : Byte) : Statement (.encData d) := by
  intro _; revert d; decide

theorem encEnd (r : Byte) : Statement (.encEnd r) := by
  intro _; revert r; decide

theorem decSpace : Statement .decSpace := by
  intro _; decide

theorem decData (s : Byte) : Statement (.decData s) := by
  unfold Statement; revert s; decide

theorem decEnd (r : Byte) : Statement (.decEnd r) := by
  intro _; revert r; decide

theorem lutFwd (v : Digit) : Statement (.lutFwd v) := by
  intro _; revert v; decide

theorem lutRev (c : Byte) : Statement (.lutRev c) := by
  intro _; revert c; decide

theorem encPop : Statement .encPop := by
  intro _; decide

theorem decPop : Statement .decPop := by
  intro _; decide

theorem rst : Statement .rst := by
  intro _; decide

end Sys2Proof.Laws.OpcodeRow
end

