-- ==== Sys2Proof/Laws/Program.lean ====
section
/-! SUPPORT. Spec lemmas of runs of programs and of the consumers' readings: what a run's step does, what it offers, and
how the readings of 43_stream_control.md R108 grow. -/

namespace Sys2Proof.Machine

/-! ## A run's step -/

/-- Everything a step of a run can do when it answers a run. -/
theorem runStep_next {r r' : ProgramRun} (h : runStep r = .next r') :
    ∃ t, step r.offered = .next t ∧ r' = r.advance t := by
  unfold runStep at h
  split at h <;> cases h
  exact ⟨_, ‹_›, rfl⟩

/-- Placing the offer leaves every field but the agents' lists. -/
theorem ProgramRun.offered_eq (r : ProgramRun) : r.offered = { r.state with agents := r.offered.agents } := by
  unfold ProgramRun.offered
  split <;> rfl

theorem ProgramRun.offered_actor (r : ProgramRun) : r.offered.actor = r.state.actor := by
  rw [ProgramRun.offered_eq]
  rfl

/-- The machine's step runs the moving agent's next offer. -/
theorem ProgramRun.fetch_offered (r : ProgramRun) : fetch r.offered = (r.nextOffer r.state.actor).map decode := by
  unfold ProgramRun.offered
  split
  · next h => rw [fetch_placeOffer, h]; rfl
  · next h =>
    cases ho : offerOf r.state.agents r.state.actor with
    | some o => simp [fetch, ProgramRun.nextOffer, ho]
    | none =>
      cases hn : r.nextOffer r.state.actor with
      | none => simp [fetch, ho]
      | some o => exact absurd hn (h o ho)

@[simp] theorem ProgramRun.advance_state (r : ProgramRun) (t : State) : (r.advance t).state = t := by
  unfold ProgramRun.advance
  split <;> rfl

/-! ## The consumers' readings -/

theorem frameResults_append (b : List Byte) (es fs : List ChannelEvent) :
    frameResults b (es ++ fs) = frameResults b es ++ frameResults (openBytes b es) fs := by
  induction es generalizing b with
  | nil => rfl
  | cons e es ih =>
    cases e with
    | cut => exact ih []
    | word w =>
      simp only [List.cons_append, frameResults, openBytes]
      split
      · rw [ih, List.cons_append]
      · exact ih _

theorem openBytes_append (b : List Byte) (es fs : List ChannelEvent) :
    openBytes b (es ++ fs) = openBytes (openBytes b es) fs := by
  induction es generalizing b with
  | nil => rfl
  | cons e es ih =>
    cases e with
    | cut => exact ih []
    | word w =>
      simp only [List.cons_append, openBytes]
      split <;> exact ih _

theorem wordsSinceCut_word (es : List ChannelEvent) (w : OutWord) :
    wordsSinceCut (es ++ [.word w]) = wordsSinceCut es ++ [w] := by
  simp [wordsSinceCut]

theorem wordsSinceCut_cut (es : List ChannelEvent) : wordsSinceCut (es ++ [.cut]) = [] := by
  simp [wordsSinceCut]

theorem completeFrames_append (us ws : List OutWord) :
    completeFrames (us ++ ws) = completeFrames us + completeFrames ws := by
  simp [completeFrames]

end Sys2Proof.Machine
end

