-- ==== Sys2Proof/Tests/Slice0.lean ====
section
/-! SUPPORT. Tests: ill-formed terms refused, words decoded, single steps against the vectors of spec
95_test_vectors.md, and for each statement with hypotheses a state that meets them. -/

namespace Sys2Proof.Tests

open Sys2Proof.Machine

/-! ## Builders -/

/-- The reset state with these encoder registers. -/
def encState (v : Chunk) (n : Fin 4) (q : List OutWord) : State :=
  { State.reset with enc_v := v, enc_cnt := n, enc_q := q }

/-- The reset state in a mode, with these decoder registers. -/
def decState (m : OvfMode) (acc : Chunk) (n : Fin 5) (st : Status) (q : List OutWord) : State :=
  { State.reset with cfg := { Config.default with ovfMode := m }, dec_acc := acc, dec_cnt := n, dec_st := st, dec_q := q }

/-- The reset state before its first reset edge. -/
def unreset : State := { State.reset with rstSeen := false }

/-- A state that breaks 10_state.md R26: a count of 0 with a byte held. -/
def broken : State := encState 0x61000000 0 []

/-- A queue of `n` DATA words. -/
def words (n : Nat) : List OutWord := List.replicate n (dataW 0x61)

/-- Whether an operation answers a next state with this property. -/
def nextIs (p : State → Bool) : Result → Bool
  | .next t => p t
  | .fault _ => false
  | .refused _ => false

/-- Whether an operation faults so. -/
def faultIs (f : Fault) : Result → Bool
  | .next _ => false
  | .fault g => g == f
  | .refused _ => false

/-- No stream port is driven. -/
def quiet : PinInputs where
  rst := false
  enc_in_valid := false
  enc_in_word := 0
  enc_out_ready := false
  dec_in_valid := false
  dec_in_word := 0
  dec_out_ready := false
  lut_fwd_idx := 0
  lut_rev_sym := 0

/-! ## WellFormed: the one check -/

theorem test_wellformed_refuses_space_as_data : ¬ (Instr.decData 0x20).WellFormed := by decide

/-! ## Decoding: words written out from 30_encoding.md R62 and R65 -/

theorem test_decode_encData : decodeBits .encIn 0b001100001 = .ok (.encData 0x61) := by decide

theorem test_decode_encData_space : decodeBits .encIn 0b000100000 = .ok (.encData 0x20) := by decide

theorem test_decode_encEnd : decodeBits .encIn 0b110100101 = .ok (.encEnd 0xA5) := by decide

theorem test_decode_decSpace : decodeBits .decIn 0b000100000 = .ok .decSpace := by decide

theorem test_decode_decData : decodeBits .decIn 0b001010110 = .ok (.decData 0x56) := by decide

theorem test_decode_decEnd : decodeBits .decIn 0b111111111 = .ok (.decEnd 0xFF) := by decide

theorem test_decode_lutFwd : decodeBits .lutFwdIdx 0b1010100 = .ok (.lutFwd 84) := by decide

theorem test_decode_lutRev : decodeBits .lutRevSym 0b01111110 = .ok (.lutRev 0x7E) := by decide

theorem test_decode_encPop : decodeBits .encOut 0 = .ok .encPop := by decide

theorem test_decode_decPop : decodeBits .decOut 0 = .ok .decPop := by decide

theorem test_decode_rst : decodeBits .rst 1 = .ok .rst := by decide

theorem test_decode_refuses_wide_word : decodeBits .lutFwdIdx 0b10000000 = .error .wordTooWide := by decide

theorem test_decode_refuses_low_rst : decodeBits .rst 0 = .error .rstLow := by decide

/-! ## Single steps (95_test_vectors.md) -/

/-- 95, 2.3.3 step 2. -/
theorem test_encData_second_byte :
    nextIs (fun t => t.enc_v == 0x61610000 && t.enc_cnt == 2 && t.enc_q == [])
      (exec (.encData 0x61) (encState 0x61000000 1 [])) = true := by decide

/-- 95, 2.2 row 0x12345678: the fourth byte. -/
theorem test_encData_fourth_byte :
    nextIs (fun t => t.enc_v == 0 && t.enc_cnt == 0 && t.enc_q == [0x035, 0x03B, 0x052, 0x074, 0x04C])
      (exec (.encData 0x78) (encState 0x12345600 3 [])) = true := by decide

/-- 95, 2.3.2: three bytes 0xFF give `|Ns9`; depth 5 is exactly filled (95, 2.5). -/
theorem test_encEnd_tail :
    nextIs (fun t => t.enc_q == [0x07C, 0x04E, 0x073, 0x039, 0x400] && t.enc_cnt == 0)
      (exec (.encEnd 0xA5)
        { encState 0xFFFFFF00 3 [] with cfg := { Config.default with encOutqDepth := 5 } }) = true := by decide

/-- 95, 1 row S8. -/
theorem test_encEnd_empty :
    nextIs (fun t => t.enc_q == [0x400]) (exec (.encEnd 0) State.reset) = true := by decide

/-- 95, 2.4.7 step 4. -/
theorem test_decSpace :
    nextIs (fun t => t.dec_acc == 226127 && t.dec_cnt == 3 && t.dec_st == .ok && t.dec_q == [])
      (exec .decSpace (decState .wrap 226127 3 .ok [])) = true := by decide

/-- 95, 2.4.5: the fifth symbol of `|NsC1` in WRAP mode, `|NsC` folding to 50529027. -/
theorem test_decData_wraps :
    nextIs (fun t => t.dec_q == [0x000, 0x000, 0x000, 0x000] && t.dec_st == .okWrapped && t.dec_acc == 0)
      (exec (.decData 0x31) (decState .wrap 50529027 4 .ok [])) = true := by decide

/-- 95, 2.4.4: `]` fails. -/
theorem test_decData_invalid :
    nextIs (fun t => t.dec_q == [] && t.dec_st.code == 0b10 && t.dec_cnt == 0 && t.dec_acc == 0)
      (exec (.decData 0x5D) (decState .wrap 31 1 .ok [])) = true := by decide

/-- 95, 2.4.2 row `VPRn`. -/
theorem test_decEnd_tail :
    nextIs (fun t => t.dec_q == [0x061, 0x061, 0x061, 0x400] && t.dec_cnt == 0)
      (exec (.decEnd 0xFF) (decState .wrap 19220844 4 .ok [])) = true := by decide

/-- 95, 2.4.5 row `~` in FAIL mode. -/
theorem test_decEnd_overflow :
    nextIs (fun t => t.dec_q == [0x700] && t.dec_st == .ok)
      (exec (.decEnd 0) (decState .fail 84 1 .ok [])) = true := by decide

/-- 95, 2.1. -/
theorem test_lutFwd :
    nextIs (fun t => t.returned == [.lutFwd true 0x60]) (exec (.lutFwd 80) State.reset) = true := by decide

/-- 95, 2.1: the first index out of range. -/
theorem test_lutFwd_out_of_range :
    nextIs (fun t => t.returned == [.lutFwd false 0x00]) (exec (.lutFwd 85) State.reset) = true := by decide

/-- 95, 2.1. -/
theorem test_lutRev :
    nextIs (fun t => t.returned == [.lutRev true 78]) (exec (.lutRev 0x5E) State.reset) = true := by decide

/-- 95, 2.1: the space is no symbol. -/
theorem test_lutRev_space :
    nextIs (fun t => t.returned == [.lutRev false 0]) (exec (.lutRev 0x20) State.reset) = true := by decide

/-- 95, 2.5 row 1. -/
theorem test_encPop :
    nextIs (fun t => t.enc_q == [0x045, 0x400] && t.returned == [.encWord 0x056])
      (exec .encPop (encState 0 0 [0x056, 0x045, 0x400])) = true := by decide

/-- 30_encoding.md R57: an END word of the encoder with a status is a fault. -/
theorem test_encPop_illegal :
    faultIs (.illegalOutputWord 0x600) (exec .encPop (encState 0 0 [0x600])) = true := by decide

theorem test_decPop :
    nextIs (fun t => t.dec_q == [] && t.returned == [.decWord 0x500])
      (exec .decPop (decState .wrap 0 0 .ok [0x500])) = true := by decide

/-- 30_encoding.md R57: OK_WRAPPED in FAIL mode is a fault. -/
theorem test_decPop_illegal :
    faultIs (.illegalOutputWord 0x500) (exec .decPop (decState .fail 0 0 .ok [0x500])) = true := by decide

/-- 70_reset_and_hazards.md R122, from a state that breaks the invariants. -/
theorem test_rst :
    nextIs (fun t => t.enc_v == 0 && t.enc_q == [] && t.dec_st == .ok) (exec .rst broken) = true := by decide

/-- A placed word is run by the next step: `V` on `dec_in`. -/
theorem test_placed_word_runs :
    nextIs (fun t => t.dec_acc == 31 && t.dec_cnt == 1) (step (State.reset.withFetchWord 16 0x056)) = true := by decide

/-- Two agents: the first one's beat waits for room, the second one's pop goes through. -/
theorem test_turn_passes :
    nextIs (fun t => t.agents == [[.encIn 0x061], []] && t.enc_q == words 3)
      (step { encState 0 0 (words 4) with agents := [[.encIn 0x061], [.encOut]], turn := [1, 0] }) = true := by decide

/-! ## The assembler (30_encoding.md R65, R66) -/

/-- `ENC.DATA 'a' ; a` is the word 0x061. -/
theorem test_assemble_encData :
    assembleLine (nameEncData ++ [' ', charQuote, 'a', charQuote, ' ', ';', ' ', 'a']) =
      some [.op (.encData 0x61)] := by decide

/-- `DEC.DATA 32` is the word 0x020, DEC.SPACE. -/
theorem test_assemble_decData_space :
    assembleLine (nameDecData ++ [' ', '3', '2']) = some [.op .decSpace] := by decide

/-- `ENC.FRAME x"fF00"`: two bytes. -/
theorem test_assemble_encFrame :
    assembleLine (nameEncFrame ++ [' ', 'x', stringQuote, 'f', 'F', '0', '0', stringQuote]) =
      some [.encFrame [0xFF, 0x00]] := by decide

/-- `LUT.FWD 128` is no line. -/
theorem test_assemble_refuses : assembleLine (nameLutFwd ++ [' ', '1', '2', '8']) = none := by decide

/-! ## Witnesses of hypotheses: encoding and the step -/

theorem witness_PrintedOperationAssemblesBack :
    (Instr.decData 0x7E).WellFormed ∧ reservedZero (.decData 0x7E) = true := by decide

theorem witness_PrintedOperationAssemblesBack_reserved :
    (Instr.encEnd 0xA5).WellFormed ∧ ¬ reservedZero (.encEnd 0xA5) = true := by decide

theorem witness_EncodedOperationDecodesBack : (Instr.decData 0x21).WellFormed ∧ (Instr.encEnd 0xFF).WellFormed := by
  decide

theorem witness_StepRunsTheOfferedOperation_offer :
    let s := { State.reset with agents := [[], [.encIn 0x061]], turn := [1] }
    s.agents[s.actor]? = some (.encIn 0x061 :: []) := by decide

theorem witness_StepRunsTheOfferedOperation_none : State.reset.agents[State.reset.actor]? = none := by decide

theorem witness_StepRunsTheOfferedOperation_empty :
    let s := { State.reset with agents := [[]] }
    s.agents[s.actor]? = some [] := by decide

theorem witness_PlacedTableWordRunsNext_decEnd : decodeTableWord 16 0x1FF = some (.decEnd 0xFF) := by decide

theorem witness_PlacedTableWordRunsNext_rst : decodeTableWord 8 1 = some .rst := by decide

/-! ## Witnesses: alphabet_lut -/

theorem witness_ForwardTableIsTheAlphabet :
    ∀ v ∈ ([0, 9, 10, 35, 36, 61, 62, 84] : List Digit), v.toNat ≤ 84 := by decide

theorem witness_TablesAreInverses_digit : (84#7).toNat ≤ 84 := by decide

theorem witness_TablesAreInverses_byte : (rev 0x7E).ok = true := by decide

/-! ## Witnesses: base85_encoder -/

theorem witness_EncDataPlacesItsByte_first :
    let s := encState 0 0 (words 3)
    s.Live ∧ 5 = s.cfg.encOutqDepth - s.enc_q.length ∧ s.enc_cnt.val < 3 := by decide

theorem witness_EncDataPlacesItsByte_third :
    let s := encState 0x61610000 2 []
    s.Live ∧ 5 ≤ s.cfg.encOutqDepth - s.enc_q.length ∧ s.enc_cnt.val < 3 := by decide

theorem witness_EncDataPlacesItsByte_fourth :
    let s := encState 0xFFFFFF00 3 (words 3)
    s.Live ∧ 5 = s.cfg.encOutqDepth - s.enc_q.length ∧ ¬ s.enc_cnt.val < 3 := by decide

theorem witness_ChunkIsItsBytesInOrder :
    let s := encState 0 0 (words 3)
    s.Live ∧ s.EncIdle ∧ 5 = s.cfg.encOutqDepth - s.enc_q.length := by decide

theorem witness_EncEndEmitsTailAndOk_empty :
    let s := encState 0 0 (words 3)
    s.Live ∧ 5 = s.cfg.encOutqDepth - s.enc_q.length ∧ s.enc_cnt.val = 0 := by decide

theorem witness_EncEndEmitsTailAndOk_three :
    let s := encState 0xFFFFFF00 3 []
    s.Live ∧ 5 ≤ s.cfg.encOutqDepth - s.enc_q.length ∧ ¬ s.enc_cnt.val = 0 := by decide

theorem witness_EncoderInputWaitsForRoom_waits :
    let s := encState 0 0 (words 4)
    isEncInput (.encData 0x61) = true ∧ s.Live ∧ s.cfg.encOutqDepth - s.enc_q.length < 5 := by decide

theorem witness_EncoderInputWaitsForRoom_taken :
    let s := encState 0 0 (words 3)
    isEncInput (.encEnd 0) = true ∧ s.Live ∧ 5 ≤ s.cfg.encOutqDepth - s.enc_q.length := by decide

/-- Seven bytes and END, in a queue of depth 10 that they fill with 9 symbols and the END word. -/
theorem witness_EncoderFrameIsEncode :
    let s := { State.reset with cfg := { Config.default with encOutqDepth := 10 } }
    let bytes : List Byte := [0x61, 0x62, 0x63, 0x64, 0x65, 0x66, 0x67]
    s.Live ∧ s.EncIdle ∧ s.enc_q.length + 5 * (bytes.length / 4) + 5 ≤ s.cfg.encOutqDepth := by decide

/-- A run in which the encoder's beats are interleaved with a LUT read, a decoder beat and a pop. -/
theorem witness_EncoderWordsDependOnTakenBeatsOnly :
    let is : List Instr := [.encData 0x61, .lutFwd 3, .decData 0x56, .encEnd 0, .encPop]
    State.reset.Live ∧ State.reset.EncIdle ∧ Instr.rst ∉ is ∧ ∃ t, execAll is State.reset = .next t := by
  exact ⟨by decide, by decide, by decide, _, rfl⟩

/-! ## Witnesses: base85_decoder -/

theorem witness_DecSpaceChangesNothing_drain :
    let s := decState .wrap 0 0 .invalidSymbol (words 4)
    s.Live ∧ 4 = s.cfg.decOutqDepth - s.dec_q.length := by decide

theorem witness_DecSpaceChangesNothing_group :
    let s := decState .wrap 226127 3 .ok []
    s.Live ∧ 4 ≤ s.cfg.decOutqDepth - s.dec_q.length := by decide

theorem witness_DecDataInTheNormalState_first :
    let s := decState .fail 0 0 .ok (words 4)
    s.Live ∧ 4 = s.cfg.decOutqDepth - s.dec_q.length ∧ (0x7E : Byte) ≠ 0x20 ∧
      s.dec_st.failed = false ∧ (rev 0x7E).ok = true ∧
      s.dec_cnt.val < 4 := by decide

theorem witness_DecDataInTheNormalState_fourth :
    let s := decState .wrap 614124 3 .okWrapped []
    s.Live ∧ 4 ≤ s.cfg.decOutqDepth - s.dec_q.length ∧ (0x30 : Byte) ≠ 0x20 ∧
      s.dec_st.failed = false ∧ (rev 0x30).ok = true ∧
      s.dec_cnt.val < 4 := by decide

/-- `|NsC0`: 2^32-1, the largest group that fits. -/
theorem witness_DecDataInTheNormalState_fits :
    let s := decState .fail 50529027 4 .ok (words 4)
    s.Live ∧ 4 = s.cfg.decOutqDepth - s.dec_q.length ∧ (0x30 : Byte) ≠ 0x20 ∧
      s.dec_st.failed = false ∧ (rev 0x30).ok = true ∧
      s.dec_cnt.val = 4 ∧ s.dec_acc.toNat * 85 + (rev 0x30).val.toNat = 2 ^ 32 - 1 := by decide

/-- `|NsC1`: 2^32, in WRAP mode. -/
theorem witness_DecDataInTheNormalState_wraps :
    let s := decState .wrap 50529027 4 .okWrapped []
    s.Live ∧ 4 ≤ s.cfg.decOutqDepth - s.dec_q.length ∧ (0x31 : Byte) ≠ 0x20 ∧
      s.dec_st.failed = false ∧ (rev 0x31).ok = true ∧
      s.dec_cnt.val = 4 ∧ s.dec_acc.toNat * 85 + (rev 0x31).val.toNat = 2 ^ 32 ∧ s.cfg.ovfMode = .wrap := by decide

/-- `|NsC1`: 2^32, in FAIL mode. -/
theorem witness_DecDataInTheNormalState_fails :
    let s := decState .fail 50529027 4 .ok []
    s.Live ∧ 4 ≤ s.cfg.decOutqDepth - s.dec_q.length ∧ (0x31 : Byte) ≠ 0x20 ∧
      s.dec_st.failed = false ∧ (rev 0x31).ok = true ∧
      s.dec_cnt.val = 4 ∧ s.dec_acc.toNat * 85 + (rev 0x31).val.toNat = 2 ^ 32 ∧ s.cfg.ovfMode = .fail := by decide

theorem witness_DecDataInTheNormalState_invalid :
    let s := decState .wrap 50529027 4 .okWrapped (words 4)
    s.Live ∧ 4 = s.cfg.decOutqDepth - s.dec_q.length ∧ (0x80 : Byte) ≠ 0x20 ∧ s.dec_st.failed = false ∧
      (rev 0x80).ok = false := by decide

theorem witness_DrainIgnoresSymbols :
    let s := decState .fail 0 0 .overflow (words 4)
    s.Live ∧ 4 = s.cfg.decOutqDepth - s.dec_q.length ∧ (0x5D : Byte) ≠ 0x20 ∧ s.dec_st.failed = true := by decide

theorem witness_DecEndEmitsTailAndStatus_failed :
    let s := decState .wrap 0 0 .invalidSymbol (words 4)
    s.Live ∧ 4 = s.cfg.decOutqDepth - s.dec_q.length ∧ s.dec_st.failed = true := by decide

theorem witness_DecEndEmitsTailAndStatus_empty :
    let s := decState .wrap 0 0 .okWrapped []
    s.Live ∧ 4 ≤ s.cfg.decOutqDepth - s.dec_q.length ∧ ¬ s.dec_st.failed = true ∧ s.dec_cnt.val = 0 := by decide

/-- `|Ns9`, the largest encoder tail. -/
theorem witness_DecEndEmitsTailAndStatus_fits :
    let s := decState .wrap 50529024 4 .ok []
    s.Live ∧ 4 ≤ s.cfg.decOutqDepth - s.dec_q.length ∧ ¬ (s.dec_st.failed = true ∨ s.dec_cnt.val = 0) ∧
      s.dec_acc.toNat * 85 ^ (5 - s.dec_cnt.val) + (85 ^ (5 - s.dec_cnt.val) - 1) ≤ 2 ^ 32 - 1 := by decide

/-- `|`, in WRAP mode. -/
theorem witness_DecEndEmitsTailAndStatus_wraps :
    let s := decState .wrap 82 1 .ok []
    s.Live ∧ 4 ≤ s.cfg.decOutqDepth - s.dec_q.length ∧ ¬ (s.dec_st.failed = true ∨ s.dec_cnt.val = 0) ∧
      ¬ s.dec_acc.toNat * 85 ^ (5 - s.dec_cnt.val) + (85 ^ (5 - s.dec_cnt.val) - 1) ≤ 2 ^ 32 - 1 ∧
      s.cfg.ovfMode = .wrap := by decide

/-- `|NsC`, in FAIL mode. -/
theorem witness_DecEndEmitsTailAndStatus_fails :
    let s := decState .fail 50529027 4 .ok []
    s.Live ∧ 4 ≤ s.cfg.decOutqDepth - s.dec_q.length ∧ ¬ (s.dec_st.failed = true ∨ s.dec_cnt.val = 0) ∧
      ¬ s.dec_acc.toNat * 85 ^ (5 - s.dec_cnt.val) + (85 ^ (5 - s.dec_cnt.val) - 1) ≤ 2 ^ 32 - 1 ∧
      ¬ s.cfg.ovfMode = .wrap := by decide

theorem witness_PaddedTailIsFoldOf84 : 4 ≤ 4 ∧ (52200624#32).toNat < 85 ^ 4 ∧ (0#32).toNat < 85 ^ 0 := by decide

theorem witness_DecoderInputWaitsForRoom_waits :
    let s := decState .wrap 0 0 .ok (words 5)
    isDecInput .decSpace = true ∧ s.Live ∧ s.cfg.decOutqDepth - s.dec_q.length < 4 := by decide

theorem witness_DecoderInputWaitsForRoom_taken :
    let s := decState .wrap 0 0 .ok (words 4)
    isDecInput (.decEnd 0) = true ∧ s.Live ∧ 4 ≤ s.cfg.decOutqDepth - s.dec_q.length := by decide

/-- `VPR om VE` (95_test_vectors.md, 2.4.7). -/
theorem witness_DecoderFrameIsDecode :
    let text : List Byte := [0x56, 0x50, 0x52, 0x20, 0x6F, 0x6D, 0x20, 0x56, 0x45]
    State.reset.Live ∧ State.reset.DecIdle ∧
      State.reset.dec_q.length + 4 * ((text.filter (fun c => c != 0x20#8)).length / 5) + 4 ≤
        State.reset.cfg.decOutqDepth := by decide

/-- A run with a failed frame, a pop and an encoder beat. -/
theorem witness_DecoderWordsDependOnTakenBeatsOnly :
    let is : List Instr := [.decData 0x5D, .encData 0x61, .decSpace, .decEnd 0, .decPop]
    State.reset.Live ∧ State.reset.DecIdle ∧ Instr.rst ∉ is ∧ ∃ t, execAll is State.reset = .next t := by
  exact ⟨by decide, by decide, by decide, _, rfl⟩

/-- The five bytes `aaaaa`, chained into a queue of depth 8. -/
theorem witness_ChainedFrameGoesRoundTrip :
    let bytes : List Byte := [0x61, 0x61, 0x61, 0x61, 0x61]
    State.reset.Live ∧ State.reset.DecIdle ∧
      State.reset.dec_q.length + 4 * ((encodeBytes bytes).length / 5) + 4 ≤ State.reset.cfg.decOutqDepth := by decide

theorem witness_HighFirstSymbolOverflows : 83 ≤ (rev 0x7D).val.toNat := by decide

/-! ## Witnesses: pops -/

theorem witness_EncPopTakesTheHead :
    let s := encState 0 0 [0x056, 0x400]
    s.Live ∧ s.enc_q = 0x056 :: [0x400] ∧ encWordLegal 0x056 = true := by decide

theorem witness_DecPopTakesTheHead :
    let s := decState .wrap 0 0 .ok [0x500]
    s.Live ∧ s.dec_q = 0x500 :: [] ∧ decWordLegal s.cfg.ovfMode 0x500 = true := by decide

theorem witness_EncPopTakesTheHead_empty : State.reset.Live ∧ State.reset.enc_q = [] := by decide

theorem witness_DecPopTakesTheHead_empty : State.reset.Live ∧ State.reset.dec_q = [] := by decide

theorem witness_IllegalOutputWordsFault_enc :
    let s := encState 0 0 [0x401]
    s.Live ∧ s.enc_q = 0x401 :: [] ∧ encWordLegal 0x401 = false := by decide

theorem witness_IllegalOutputWordsFault_dec :
    let s := decState .wrap 0 0 .ok [0x700]
    s.Live ∧ s.dec_q = 0x700 :: [] ∧ decWordLegal s.cfg.ovfMode 0x700 = false := by decide

theorem witness_SameEdgeBeatAndPopCommute_enc :
    let s := encState 0x61616100 3 (words 3)
    s.Safe ∧ isEncInput (.encData 0x61) = true ∧ s.enc_q ≠ [] ∧ 5 ≤ s.cfg.encOutqDepth - s.enc_q.length := by decide

theorem witness_SameEdgeBeatAndPopCommute_dec :
    let s := decState .wrap 31 1 .ok (words 4)
    s.Safe ∧ isDecInput (.decEnd 0) = true ∧ s.dec_q ≠ [] ∧ 4 ≤ s.cfg.decOutqDepth - s.dec_q.length := by decide

theorem witness_OutputWordHeldUntilPopped :
    let s := encState 0x61616100 3 (words 3)
    (Instr.encData 0x61) ≠ .rst ∧ (Instr.encData 0x61) ≠ .encPop ∧ encOutValid s = true ∧
      ∃ t, exec (.encData 0x61) s = .next t := by
  exact ⟨by decide, by decide, by decide, _, rfl⟩

theorem witness_OutputWordHeldUntilPopped_dec :
    let s := decState .wrap 31 1 .ok (words 4)
    (Instr.decEnd 0) ≠ .rst ∧ (Instr.decEnd 0) ≠ .decPop ∧ decOutValid s = true ∧
      ∃ t, exec (.decEnd 0) s = .next t := by
  exact ⟨by decide, by decide, by decide, _, rfl⟩

theorem witness_FramesCompleteAtTheirEndWord_encData :
    let s := encState 0 0 [0x056]
    s.enc_q ≠ [] ∧ outKind (encOutWord s) = false ∧ ∃ t, exec .encPop s = .next t := by
  exact ⟨by decide, by decide, _, rfl⟩

theorem witness_FramesCompleteAtTheirEndWord_encEnd :
    let s := encState 0 0 [0x400]
    s.enc_q ≠ [] ∧ outKind (encOutWord s) = true ∧ ∃ t, exec .encPop s = .next t := by
  exact ⟨by decide, by decide, _, rfl⟩

theorem witness_FramesCompleteAtTheirEndWord_decData :
    let s := decState .wrap 0 0 .ok [0x061]
    s.dec_q ≠ [] ∧ outKind (decOutWord s) = false ∧ ∃ t, exec .decPop s = .next t := by
  exact ⟨by decide, by decide, _, rfl⟩

theorem witness_FramesCompleteAtTheirEndWord_decSuccess :
    let s := { decState .wrap 0 0 .ok [0x500] with returned := [.decWord 0x061] }
    s.dec_q ≠ [] ∧ outKind (decOutWord s) = true ∧ (Status.ofCode (outStatus (decOutWord s))).failed = false ∧
      decOpenBytes s = [0x61] ∧ ∃ t, exec .decPop s = .next t := by
  exact ⟨by decide, by decide, by decide, by decide, _, rfl⟩

theorem witness_FramesCompleteAtTheirEndWord_decFailure :
    let s := { decState .fail 0 0 .ok [0x700] with returned := [.decWord 0x061] }
    s.dec_q ≠ [] ∧ outKind (decOutWord s) = true ∧ (Status.ofCode (outStatus (decOutWord s))).failed = true ∧
      ∃ t, exec .decPop s = .next t := by
  exact ⟨by decide, by decide, by decide, _, rfl⟩

theorem witness_FramesCompleteAtTheirEndWord_rst : ∃ t, exec .rst State.reset = .next t := ⟨_, rfl⟩

/-! ## Witnesses: reset, before it, and edges -/

theorem witness_NoBeatBeforeTheFirstReset :
    unreset.rstSeen = false ∧ (onEnc (.encData 0x61) || onDec (.encData 0x61)) = true := by decide

theorem witness_NoBeatBeforeTheFirstReset_edges :
    unreset.rstSeen = false ∧ quiet.rst = false ∧ quiet.drivesStream = false ∧
      { quiet with enc_in_valid := true }.drivesStream = true := by decide

/-- Pins driven before the first reset fault, whatever the registers hold (log entry 4). -/
theorem test_edge_before_reset :
    faultIs .preReset (edge { quiet with dec_out_ready := true } { unreset with dec_q := [] }) = true := by decide

theorem witness_BrokenStatesFault :
    broken.rstSeen = true ∧ ¬ broken.Inv ∧ (onEnc .decPop || onDec .decPop) = true := by decide

theorem witness_RstGivesTheResetState : { quiet with rst := true, enc_in_valid := true }.rst = true := by decide

/-- All four stream ports have their handshake at this edge. -/
theorem witness_EveryEdgeRuns :
    let p := { quiet with enc_in_valid := true, enc_out_ready := true, dec_in_valid := true, dec_out_ready := true }
    let s := { encState 0 0 (words 3) with dec_q := words 4 }
    s.Safe ∧ p.rst = false ∧ (edgeOffers p s).length = 4 := by decide

/-! ## Witnesses: whole-machine rules -/

theorem witness_StepKeepsInvariants :
    let s := State.reset.withFetchWord 16 0x056
    s.Inv ∧ ∃ t, step s = .next t := ⟨by decide, _, rfl⟩

theorem witness_SafeStatesStepToSafeStates : (State.reset.withFetchWord 16 0x1FF).Safe := by decide

theorem witness_StepKeepsParameters :
    let s := State.reset.withFetchWord 8 1
    s.rstSeen = true ∧ ∃ t, step s = .next t := ⟨by decide, _, rfl⟩

/-- Two states that agree on the encoder and differ in the decoder, and an encoder beat in both. -/
theorem witness_ChannelsDoNotInterfere :
    let s := encState 0x61616100 3 []
    let s' := { s with dec_acc := 31, dec_cnt := 1 }
    Instr.encData 0x61 ≠ .rst ∧ onDec (.encData 0x61) = false ∧ SameEnc s s' ∧
      s'.cfg.encOutqDepth = s.cfg.encOutqDepth ∧
      (∃ t, exec (.encData 0x61) s = .next t) ∧ ∃ t', exec (.encData 0x61) s' = .next t' := by
  exact ⟨by decide, by decide, by decide, by decide, ⟨_, rfl⟩, _, rfl⟩

/-- Two states that agree on the decoder and differ in the encoder, and a decoder beat in both. -/
theorem witness_ChannelsDoNotInterfere_dec :
    let s := decState .fail 50529027 4 .ok []
    let s' := { s with enc_q := words 8 }
    Instr.decData 0x31 ≠ .rst ∧ onEnc (.decData 0x31) = false ∧ SameDec s s' ∧ s'.cfg = s.cfg ∧
      (∃ t, exec (.decData 0x31) s = .next t) ∧ ∃ t', exec (.decData 0x31) s' = .next t' := by
  exact ⟨by decide, by decide, by decide, by decide, ⟨_, rfl⟩, _, rfl⟩

theorem witness_ChannelsInterleaveInAnyOrder :
    onEnc (.encEnd 0) = true ∧ onDec (.decData 0x56) = true ∧
      ∃ t, execAll [.encEnd 0, .decData 0x56] State.reset = .next t := ⟨by decide, by decide, _, rfl⟩

theorem witness_StatusChangesOnlyAsTabled_invalid :
    ∃ t, exec (.decData 0x5D) State.reset = .next t ∧ t.dec_st ≠ State.reset.dec_st := ⟨_, rfl, by decide⟩

theorem witness_StatusChangesOnlyAsTabled_wraps :
    let s := decState .wrap 50529027 4 .ok []
    ∃ t, exec (.decData 0x31) s = .next t ∧ t.dec_st ≠ s.dec_st := ⟨_, rfl, by decide⟩

theorem witness_StatusChangesOnlyAsTabled_fails :
    let s := decState .fail 50529027 4 .ok []
    ∃ t, exec (.decData 0x31) s = .next t ∧ t.dec_st ≠ s.dec_st := ⟨_, rfl, by decide⟩

theorem witness_StatusChangesOnlyAsTabled_rst :
    let s := decState .fail 0 0 .overflow []
    ∃ t, exec .rst s = .next t ∧ t.dec_st ≠ s.dec_st := ⟨_, rfl, by decide⟩

theorem witness_StatusChangesOnlyAsTabled_end :
    let s := decState .fail 0 0 .overflow []
    ∃ t, exec (.decEnd 0) s = .next t ∧ t.dec_st ≠ s.dec_st := ⟨_, rfl, by decide⟩

theorem witness_FailedFrameEmitsItsVerdictOnly :
    let s := decState .fail 0 0 .overflow []
    s.dec_st.failed = true ∧ Instr.decEnd 0 ≠ .rst ∧ Instr.decEnd 0 ≠ .decPop ∧ ∃ t, exec (.decEnd 0) s = .next t :=
  ⟨by decide, by decide, by decide, _, rfl⟩

theorem witness_EndLeavesNothingOfItsFrame_enc :
    let s := encState 0xFFFFFF00 3 []
    encInReady false s = true ∧ ∃ t, exec (.encEnd 0) s = .next t := ⟨by decide, _, rfl⟩

theorem witness_EndLeavesNothingOfItsFrame_dec :
    let s := decState .wrap 31 1 .ok []
    decInReady false s = true ∧ ∃ t, exec (.decEnd 0) s = .next t := ⟨by decide, _, rfl⟩

theorem witness_BeatsAppendBoundedWords :
    Instr.encData 0x61 ≠ .rst ∧ Instr.encData 0x61 ≠ .encPop ∧
      ∃ t, exec (.encData 0x61) (encState 0x61616100 3 []) = .next t := ⟨by decide, by decide, _, rfl⟩

theorem witness_BeatsAppendBoundedWords_dec :
    Instr.decEnd 0 ≠ .rst ∧ Instr.decEnd 0 ≠ .decPop ∧
      ∃ t, exec (.decEnd 0) (decState .wrap 31 1 .ok []) = .next t := ⟨by decide, by decide, _, rfl⟩

/-! ## Programs -/

/-- The run `p` in the state `s`. -/
def runIn (s : State) (p : List (List Action)) : ProgramRun := { state := s, programs := p, taken := [] }

/-- Whether a step of a run answers a run with this property. -/
def runIs (p : ProgramRun → Bool) : Host.Outcome ProgramRun Fault Refusal → Bool
  | .next r => p r
  | .fault _ => false
  | .refused _ => false

/-- 30_encoding.md R66: a popped DATA word leaves ENC.POPFRAME to be done again, though no END word is queued yet. -/
theorem test_popFrame_goes_on :
    runIs (fun r => r.programs == [[.encPopFrame]] && r.state.enc_q == [])
      (runStep (runIn (encState 0 0 [0x056]) [[.encPopFrame]])) = true := by decide

/-- 43_stream_control.md R108: an empty frame ends its run when its END word is popped, not before. -/
theorem test_run_ends :
    runIs (fun r => !r.ended) (runSteps 1 (.start .default [] [[.encFrame [], .encPopFrame]])) = true ∧
      runIs (fun r => r.ended) (runSteps 2 (.start .default [] [[.encFrame [], .encPopFrame]])) = true := by decide

theorem witness_PopFramesPopThroughTheEndWord_data :
    let r := runIn (encState 0 0 [0x056, 0x400]) [[.encPopFrame, .op .rst]]
    r.state.Live ∧ offerOf r.state.agents r.state.actor = none ∧
      r.programs[r.state.actor]? = some (.encPopFrame :: [.op .rst]) ∧ r.state.enc_q = 0x056 :: [0x400] ∧
      encWordLegal 0x056 = true ∧ outKind 0x056 = false := by decide

/-- The pop waits already, and its END word has come. -/
theorem witness_PopFramesPopThroughTheEndWord_end :
    let r := runIn { encState 0 0 [0x400] with agents := [[.encOut]] } [[.encPopFrame]]
    r.state.Live ∧ r.state.agents[r.state.actor]? = some [.encOut] ∧
      r.programs[r.state.actor]? = some (.encPopFrame :: []) ∧ r.state.enc_q = 0x400 :: [] ∧
      encWordLegal 0x400 = true ∧ outKind 0x400 = true := by decide

theorem witness_PopFramesPopThroughTheEndWord_empty :
    let r := runIn State.reset [[.encPopFrame]]
    r.state.Live ∧ offerOf r.state.agents r.state.actor = none ∧
      r.programs[r.state.actor]? = some (.encPopFrame :: []) ∧ r.state.enc_q = [] := by decide

theorem witness_PopFramesPopThroughTheEndWord_dec :
    let r := runIn (decState .fail 0 0 .ok [0x700]) [[.decPopFrame]]
    r.state.Live ∧ offerOf r.state.agents r.state.actor = none ∧
      r.programs[r.state.actor]? = some (.decPopFrame :: []) ∧ r.state.dec_q = 0x700 :: [] ∧
      decWordLegal r.state.cfg.ovfMode 0x700 = true := by decide

theorem witness_PopFramesPopThroughTheEndWord_decEmpty :
    let r := runIn { State.reset with agents := [[.decOut]] } [[.decPopFrame]]
    r.state.Live ∧ r.state.agents[r.state.actor]? = some [.decOut] ∧
      r.programs[r.state.actor]? = some (.decPopFrame :: []) ∧ r.state.dec_q = [] := by decide

/-- `aaa` fits a depth of 5 in one agent's ENC.FRAME, `VPRom VE` the default depth in DEC.FRAME. -/
theorem witness_FrameActionsSendTheirBeats :
    5 * (([0x61, 0x61, 0x61] : List Byte).length / 4) + 5 ≤ { Config.default with encOutqDepth := 5 }.encOutqDepth ∧
      4 * ((([0x56, 0x50, 0x52, 0x6F, 0x6D, 0x20, 0x56, 0x45] : List Byte).filter (fun c => c != 0x20#8)).length / 5) +
        4 ≤ Config.default.decOutqDepth := by decide

theorem witness_EndedRunLeavesNothing :
    ∃ r, runSteps 2 (.start .default [] [[.encFrame [], .encPopFrame]]) = .next r ∧ r.ended = true ∧
      r.framesComplete = true := ⟨_, rfl, by decide, by decide⟩

end Sys2Proof.Tests
end

section
/-! SUPPORT. What the moving agent offers decides the step (spec 00_scope.md R12, R13, 60_exceptions.md R120). -/

namespace Sys2Proof.Machine

/-! ## What an agent offers, read from the agents' lists -/

theorem offerOf_eq_some_iff {agents : List (List Offer)} {n : Nat} {o : Offer} :
    offerOf agents n = some o ↔ ∃ os, agents[n]? = some (o :: os) := by
  rw [offerOf, List.getD_eq_getElem?_getD]
  cases agents[n]? with
  | none => simp
  | some l => simp [List.head?_eq_some_iff]

/-- An agent that does not exist and an agent whose list is empty have nothing to offer. -/
theorem offerOf_eq_none_iff {agents : List (List Offer)} {n : Nat} :
    offerOf agents n = none ↔ agents[n]? = none ∨ agents[n]? = some [] := by
  rw [offerOf, List.getD_eq_getElem?_getD]
  cases agents[n]? with
  | none => simp
  | some l => simp

/-! ## The two cases of a step -/

theorem step_of_offer {s : State} {o : Offer} (h : offerOf s.agents s.actor = some o) :
    step s = exec (decode o) s := by
  have hf : fetch s = some (decode o) := by rw [fetch, h, Option.map_some]
  rw [step, hf]

theorem step_of_no_offer {s : State} (h : offerOf s.agents s.actor = none) : step s = .next s.pass := by
  have hf : fetch s = none := by rw [fetch, h, Option.map_none]
  rw [step, hf, idle]

end Sys2Proof.Machine
end

section
/-! PROOFS. The statement of 00_scope.md on the step. -/

namespace Sys2Proof.Proofs.Scope

open Sys2Proof.Machine

/-- Settles O9, by what the moving agent's list offers first. -/
theorem stepRunsTheOfferedOperation : Obligations.StepRunsTheOfferedOperation := by
  intro s
  constructor
  · intro o os h
    exact step_of_offer (offerOf_eq_some_iff.2 ⟨os, h⟩)
  · intro h
    exact step_of_no_offer (offerOf_eq_none_iff.2 h)

end Sys2Proof.Proofs.Scope
end

section
/-! SUPPORT. What a step can do (spec 00_scope.md R12): every operation is its effect when its handshake completes, and
only a passed turn otherwise. -/

namespace Sys2Proof.Machine

/-- Whether the hardware's side of an operation's handshake is there: room for the words of a beat, a word to pop. LUT
reads and RST wait for nothing (10_state.md R32, 40_alphabet_lut.md R73, 70_reset_and_hazards.md R122). -/
def opReady : Instr → State → Bool
  | .encData _, s => encInReady false s
  | .encEnd _, s => encInReady false s
  | .decSpace, s => decInReady false s
  | .decData _, s => decInReady false s
  | .decEnd _, s => decInReady false s
  | .lutFwd _, _ => true
  | .lutRev _, _ => true
  | .encPop, s => encOutValid s
  | .decPop, s => decOutValid s
  | .rst, _ => true

/-- What an operation does once its handshake completes, before the moving agent goes on. -/
def opEffect : Instr → State → State
  | .encData d, s => encDataEffect d s
  | .encEnd _, s => encEndEffect s
  | .decSpace, s => s
  | .decData c, s => decDataEffect c s
  | .decEnd _, s => decEndEffect s
  | .lutFwd v, s => s.give (.lutFwd (lutFwdPort v).1 (lutFwdPort v).2)
  | .lutRev c, s => s.give (.lutRev (lutRevPort c).1 (lutRevPort c).2)
  | .encPop, s => s.dropEnc.give (.encWord (encOutWord s))
  | .decPop, s => s.dropDec.give (.decWord (decOutWord s))
  | .rst, s => s.resetRegs.give .reset

/-- The state after an operation that answers one. -/
def opNext (i : Instr) (s : State) : State := if opReady i s = true then (opEffect i s).retire else s.pass

theorem opNext_of_ready {i : Instr} {s : State} (h : opReady i s = true) : opNext i s = (opEffect i s).retire :=
  if_pos h

theorem opNext_of_not_ready {i : Instr} {s : State} (h : ¬ opReady i s = true) : opNext i s = s.pass := if_neg h

/-- Everything a guarded handshake can do when it answers a next state, `done` being what it answers when ready. -/
theorem guarded_handshake_next {s t u : State} {ready : Bool} {done : Result} (hdone : done = .next t → t = u)
    (h : guarded s (if ready = true then done else .next s.pass) = .next t) :
    s.Live ∧ t = if ready = true then u else s.pass := by
  obtain ⟨hseen, hinv, h⟩ := guarded_next h
  refine ⟨⟨hseen, hinv⟩, ?_⟩
  cases ready with
  | true => exact hdone h
  | false => exact (Host.Outcome.next.inj h).symm

/-- A pop answers a next state only with a word that can have been emitted (30_encoding.md R57). -/
theorem checked_next {t u : State} {legal : Bool} {e : Fault}
    (h : (if legal = true then (.next u : Result) else .fault e) = .next t) : t = u := by
  cases legal with
  | true => exact (Host.Outcome.next.inj h).symm
  | false => cases h

/-- Everything an operation can do when it answers a next state: beats and pops run in live states only. -/
theorem exec_next {i : Instr} {s t : State} (h : exec i s = .next t) :
    ((onEnc i || onDec i) = true → s.Live) ∧ t = opNext i s := by
  cases i with
  | lutFwd _ | lutRev _ | rst => exact ⟨nofun, (Host.Outcome.next.inj h).symm⟩
  | encPop | decPop => exact (guarded_handshake_next checked_next h).imp_left fun hl _ => hl
  | encData _ | encEnd _ | decSpace | decData _ | decEnd _ =>
    exact (guarded_handshake_next (fun e => (Host.Outcome.next.inj e).symm) h).imp_left fun hl _ => hl

/-- Everything a step can do when it answers a next state. -/
theorem step_next {s t : State} (h : step s = .next t) :
    (∃ i, fetch s = some i ∧ exec i s = .next t) ∨ (fetch s = none ∧ t = s.pass) := by
  unfold step at h
  cases hf : fetch s with
  | some i =>
    rw [hf] at h
    exact .inl ⟨i, rfl, h⟩
  | none =>
    rw [hf] at h
    exact .inr ⟨rfl, (Host.Outcome.next.inj h).symm⟩

/-- What passing the turn, every completed operation and the moving agent's going on keep, every step keeps. -/
theorem step_keeps {P : State → Prop} {s t : State} (hpass : P s.pass)
    (hop : ∀ i, opReady i s = true → P (opEffect i s).retire) (h : step s = .next t) : P t := by
  rcases step_next h with ⟨i, -, hx⟩ | ⟨-, rfl⟩
  · obtain ⟨-, rfl⟩ := exec_next hx
    by_cases hr : opReady i s = true
    · rw [opNext_of_ready hr]
      exact hop i hr
    · rw [opNext_of_not_ready hr]
      exact hpass
  · exact hpass

end Sys2Proof.Machine
end

section
/-! SUPPORT. Every operation keeps the parameters and the invariants (spec 10_state.md R26, R29). -/

namespace Sys2Proof.Machine

/-! ## The parameters -/

/-- No operation writes the parameters (10_state.md R29). -/
@[simp] theorem opEffect_cfg (i : Instr) (s : State) : (opEffect i s).cfg = s.cfg := by
  cases i with
  | encData d =>
    obtain ⟨-, ⟨hcfg, -⟩, -⟩ := encDataEffect_frame d s
    exact hcfg
  | decData c =>
    obtain ⟨-, ⟨hcfg, -⟩, -⟩ := decDataEffect_frame c s
    exact hcfg
  | encEnd _ | decSpace | decEnd _ | lutFwd _ | lutRev _ | encPop | decPop | rst => rfl

/-- No operation forgets a reset edge (70_reset_and_hazards.md R124). -/
theorem opEffect_rstSeen (i : Instr) {s : State} (h : s.rstSeen = true) : (opEffect i s).rstSeen = true := by
  cases i with
  | encData d =>
    obtain ⟨-, ⟨-, hseen⟩, -⟩ := encDataEffect_frame d s
    exact hseen.trans h
  | decData c =>
    obtain ⟨-, ⟨-, hseen⟩, -⟩ := decDataEffect_frame c s
    exact hseen.trans h
  | rst => rfl
  | encEnd _ | decSpace | decEnd _ | lutFwd _ | lutRev _ | encPop | decPop => exact h

/-! ## The encoder's effects -/

/-- A byte placed in slot `c` leaves the slots after it clear (10_state.md R26). -/
theorem placeByte_clear {v : Chunk} {c : Nat} (b : Byte) (hc : c < 4) (h : v.toNat % 2 ^ (32 - 8 * c) = 0) :
    (placeByte v c b).toNat % 2 ^ (32 - 8 * (c + 1)) = 0 := by
  have hexp : 32 - 8 * (c + 1) = 24 - 8 * c := by omega
  have hv : 2 ^ (24 - 8 * c) ∣ v.toNat :=
    (pow_dvd_pow 2 (by omega)).trans (Nat.dvd_of_mod_eq_zero h)
  rw [hexp, placeByte_toNat b hc h]
  exact Nat.mod_eq_zero_of_dvd (hv.add (Nat.dvd_mul_left _ _))

theorem State.emitEnc_inv {s : State} (hi : s.Inv) {ws : List OutWord}
    (hw : s.enc_q.length + ws.length ≤ s.cfg.encOutqDepth) : (s.emitEnc ws).Inv := by
  obtain ⟨hclear, hacc, hdrain, hst, -, hdec⟩ := hi
  exact ⟨hclear, hacc, hdrain, hst, by simpa using hw, hdec⟩

theorem State.setChunk_zero_inv {s : State} (hi : s.Inv) : (s.setChunk 0 0).Inv := by
  obtain ⟨-, hrest⟩ := hi
  exact ⟨Nat.zero_mod _, hrest⟩

theorem encDataEffect_inv {s : State} (d : Byte) (hi : s.Inv) (hr : s.enc_q.length + 5 ≤ s.cfg.encOutqDepth) :
    (encDataEffect d s).Inv := by
  rcases encDataEffect_cases d s with ⟨hlt, h⟩ | ⟨-, h⟩ <;> rw [h]
  · obtain ⟨hclear, hrest⟩ := hi
    have hcnt : (s.enc_cnt + 1).val = s.enc_cnt.val + 1 := Fin.val_add_one_of_lt' (by omega)
    refine ⟨?_, hrest⟩
    simpa [State.ChunkClear, hcnt] using placeByte_clear d (by omega) hclear
  · exact State.setChunk_zero_inv (s.emitEnc_inv hi (by simpa using hr))

theorem encEndEffect_inv {s : State} (hi : s.Inv) (hr : s.enc_q.length + 5 ≤ s.cfg.encOutqDepth) :
    (encEndEffect s).Inv := by
  have hlen := encTail_length s
  refine State.setChunk_zero_inv (s.emitEnc_inv hi ?_)
  simp only [List.length_append, List.length_singleton]
  omega

/-! ## The decoder's effects -/

/-- Every value of the reverse table is a digit (40_alphabet_lut.md R69). -/
theorem rev_val_lt (c : Byte) : (rev c).val.toNat < 85 := by
  revert c; decide

/-- Resolve keeps the status within its mode (10_state.md R26, 42_decoder.md R93). -/
theorem statusLegal_resolved {mode : OvfMode} {st st' : Status} (h : statusLegal mode st = true)
    (hst : st' = st ∨ (st' = .okWrapped ∧ mode = .wrap)) : statusLegal mode st' = true := by
  rcases hst with rfl | ⟨rfl, rfl⟩
  · exact h
  · rfl

theorem State.emitDec_inv {s : State} (hi : s.Inv) {ws : List OutWord}
    (hw : s.dec_q.length + ws.length ≤ s.cfg.decOutqDepth) : (s.emitDec ws).Inv := by
  obtain ⟨hclear, hacc, hdrain, hst, henc, -⟩ := hi
  exact ⟨hclear, hacc, hdrain, hst, henc, by simpa using hw⟩

/-- Clearing the group meets the decoder's share of R26 under any status of the mode: Fail, a full group and DEC.END
all do so (42_decoder.md R92, R94, R96). -/
theorem State.clearGroup_inv {s : State} {st : Status} (hi : s.Inv) (hst : statusLegal s.cfg.ovfMode st = true) :
    ((s.setGroup 0 0).setStatus st).Inv := by
  obtain ⟨hclear, -, -, -, hq⟩ := hi
  exact ⟨hclear, Nat.one_pos, fun _ => ⟨rfl, rfl⟩, hst, hq⟩

theorem completeGroup_inv {s : State} (t : Fold) (hi : s.Inv) (hr : s.dec_q.length + 4 ≤ s.cfg.decOutqDepth) :
    (completeGroup t s).Inv := by
  rcases completeGroup_cases t s with ⟨h, hmode⟩ | ⟨st, h, hst⟩ <;> rw [h]
  · exact s.clearGroup_inv hi (by rw [hmode]; rfl)
  · have ⟨_, _, _, hlegal, _⟩ := hi
    exact State.clearGroup_inv (s.emitDec_inv hi (by simpa using hr)) (statusLegal_resolved hlegal hst)

/-- A folded symbol keeps the accumulator below the next power of 85 (10_state.md R26, 42_decoder.md R88). -/
theorem foldStep_bounded {s : State} (hi : s.Inv) (c : Byte) :
    ((foldStep s.dec_acc (rev c).val).setWidth 32).toNat < 85 ^ (s.dec_cnt.val + 1) := by
  have ⟨_, hacc, _⟩ := hi
  have hval := rev_val_lt c
  rw [BitVec.toNat_setWidth, foldStep_of_inv hi]
  calc (s.dec_acc.toNat * 85 + (rev c).val.toNat) % 2 ^ 32
      ≤ s.dec_acc.toNat * 85 + (rev c).val.toNat := Nat.mod_le _ _
    _ < (s.dec_acc.toNat + 1) * 85 := by omega
    _ ≤ 85 ^ (s.dec_cnt.val + 1) := Nat.mul_le_mul_right 85 hacc

theorem decDataEffect_inv {s : State} (c : Byte) (hi : s.Inv) (hr : s.dec_q.length + 4 ≤ s.cfg.decOutqDepth) :
    (decDataEffect c s).Inv := by
  cases hf : s.dec_st.failed with
  | true => rwa [decDataEffect_drain c hf]
  | false =>
    cases hc : (rev c).ok with
    | false =>
      rw [decDataEffect_invalid hf hc]
      exact s.clearGroup_inv hi (statusLegal_invalidSymbol _)
    | true =>
      by_cases hk : s.dec_cnt.val < 4
      · have hcnt : (s.dec_cnt + 1).val = s.dec_cnt.val + 1 := Fin.val_add_one_of_lt' (by omega)
        have hacc := foldStep_bounded hi c
        obtain ⟨hclear, -, -, hrest⟩ := hi
        rw [decDataEffect_fold hf hc hk]
        refine ⟨hclear, ?_, fun hfail => ?_, hrest⟩
        · simpa [State.AccBounded, hcnt] using hacc
        · exact absurd hfail (by simp [hf])
      · rw [decDataEffect_group hf hc (by have := s.dec_cnt.isLt; omega)]
        exact completeGroup_inv _ hi hr

/-- DEC.END queues at most 4 words (42_decoder.md R92, R97). -/
theorem decEndWords_length (s : State) :
    (if s.dec_st.failed = true ∨ s.dec_cnt = 0 then [endW s.dec_st] else tailWords s).length ≤ 4 := by
  split
  · simp
  · exact tailWords_length s

theorem decEndEffect_inv {s : State} (hi : s.Inv) (hr : s.dec_q.length + 4 ≤ s.cfg.decOutqDepth) :
    (decEndEffect s).Inv :=
  State.clearGroup_inv (s.emitDec_inv hi ((Nat.add_le_add_left (decEndWords_length s) _).trans hr)) (statusLegal_ok _)

/-! ## Pops and RST -/

theorem State.dropEnc_inv {s : State} (hi : s.Inv) : s.dropEnc.Inv := by
  obtain ⟨hclear, hacc, hdrain, hst, henc, hdec⟩ := hi
  exact ⟨hclear, hacc, hdrain, hst, (by simp; omega), hdec⟩

theorem State.dropDec_inv {s : State} (hi : s.Inv) : s.dropDec.Inv := by
  obtain ⟨hclear, hacc, hdrain, hst, henc, hdec⟩ := hi
  exact ⟨hclear, hacc, hdrain, hst, henc, (by simp; omega)⟩

/-- The reset values meet R26 whatever the registers held (10_state.md R31). -/
theorem State.resetRegs_inv (s : State) : s.resetRegs.Inv :=
  ⟨Nat.zero_mod _, Nat.one_pos, fun _ => ⟨rfl, rfl⟩, statusLegal_ok _, Nat.zero_le _, Nat.zero_le _⟩

/-! ## Every operation -/

/-- An operation whose handshake completes keeps the five invariants of 10_state.md R26. -/
theorem opEffect_inv {s : State} (hi : s.Inv) (i : Instr) (hr : opReady i s = true) : (opEffect i s).Inv := by
  cases i with
  | encData d => exact encDataEffect_inv d hi ((encInReady_iff s).1 hr)
  | encEnd _ => exact encEndEffect_inv hi ((encInReady_iff s).1 hr)
  | decSpace => exact hi
  | decData c => exact decDataEffect_inv c hi ((decInReady_iff s).1 hr)
  | decEnd _ => exact decEndEffect_inv hi ((decInReady_iff s).1 hr)
  | lutFwd _ => exact hi
  | lutRev _ => exact hi
  | encPop => exact s.dropEnc_inv hi
  | decPop => exact s.dropDec_inv hi
  | rst => exact s.resetRegs_inv

end Sys2Proof.Machine
end

section
/-! PROOFS. The statements of 10_state.md on the reset state, the parameters and the invariants. -/

namespace Sys2Proof.Proofs.StateRules

open Sys2Proof.Machine

/-- Settles O48: every operation whose handshake completes keeps R26, and the agents' side is not in R26. -/
theorem stepKeepsInvariants : Obligations.StepKeepsInvariants := by
  intro s t hi h
  exact step_keeps (s.pass_inv.2 hi) (fun i hr => (State.retire_inv _).2 (opEffect_inv hi i hr)) h

/-- Settles O50: no operation writes the parameters, and only RST writes the reset mark. -/
theorem stepKeepsParameters : Obligations.StepKeepsParameters := by
  intro s t h
  exact step_keeps (P := fun u => u.cfg = s.cfg ∧ (s.rstSeen = true → u.rstSeen = true))
    ⟨rfl, id⟩ (fun i _ => ⟨opEffect_cfg i s, opEffect_rstSeen i⟩) h

/-- Settles O55: an END beat that is taken clears its channel's registers. -/
theorem endLeavesNothingOfItsFrame : Obligations.EndLeavesNothingOfItsFrame := by
  intro r s t
  constructor
  · intro h hr
    obtain ⟨-, rfl⟩ := exec_next h
    rw [opNext_of_ready (i := .encEnd r) hr]
    exact ⟨rfl, rfl⟩
  · intro h hr
    obtain ⟨-, rfl⟩ := exec_next h
    rw [opNext_of_ready (i := .decEnd r) hr]
    exact ⟨rfl, rfl, rfl⟩

/-- Settles O43: the fields of the reset state, as written there. -/
theorem resetStateValues : Obligations.ResetStateValues :=
  ⟨rfl, rfl, rfl, rfl, rfl, rfl, rfl⟩

/-- Settles O44: the reset values meet R26, and nothing is queued. -/
theorem resetStateIsSafe : Obligations.ResetStateIsSafe :=
  ⟨⟨⟨rfl, State.reset.resetRegs_inv⟩, List.forall_mem_nil _, List.forall_mem_nil _⟩, by decide⟩

end Sys2Proof.Proofs.StateRules
end

section
/-! SUPPORT. What an operation does to the channel it belongs to and to the other one, and runs of operations (spec
20_memory.md R41, R42). -/

namespace Sys2Proof.Machine

/-! ## A channel the operation does not belong to -/

/-- No operation but RST writes the encoder unless it belongs to it (20_memory.md R42). -/
theorem opEffect_sameEnc {i : Instr} (hi : onEnc i = false) (hrst : i ≠ .rst) (s : State) :
    SameEnc s (opEffect i s) := by
  cases i with
  | encData _ | encEnd _ | encPop => cases hi
  | rst => exact absurd rfl hrst
  | decData c =>
    obtain ⟨henc, -⟩ := decDataEffect_frame c s
    exact henc
  | decSpace | decEnd _ | lutFwd _ | lutRev _ | decPop => exact ⟨rfl, rfl, rfl⟩

/-- No operation but RST writes the decoder unless it belongs to it (20_memory.md R42). -/
theorem opEffect_sameDec {i : Instr} (hi : onDec i = false) (hrst : i ≠ .rst) (s : State) :
    SameDec s (opEffect i s) := by
  cases i with
  | decSpace | decData _ | decEnd _ | decPop => cases hi
  | rst => exact absurd rfl hrst
  | encData d =>
    obtain ⟨hdec, -⟩ := encDataEffect_frame d s
    exact hdec
  | encEnd _ | lutFwd _ | lutRev _ | encPop => exact ⟨rfl, rfl, rfl, rfl⟩

theorem opNext_sameEnc {i : Instr} (hi : onEnc i = false) (hrst : i ≠ .rst) (s : State) : SameEnc s (opNext i s) := by
  unfold opNext
  split
  · exact opEffect_sameEnc hi hrst s
  · exact ⟨rfl, rfl, rfl⟩

theorem opNext_sameDec {i : Instr} (hi : onDec i = false) (hrst : i ≠ .rst) (s : State) : SameDec s (opNext i s) := by
  unfold opNext
  split
  · exact opEffect_sameDec hi hrst s
  · exact ⟨rfl, rfl, rfl, rfl⟩

/-! ## The input beats of a channel wait for that channel's room -/

theorem opReady_of_isEncInput {i : Instr} (hi : isEncInput i = true) (s : State) :
    opReady i s = encInReady false s := by
  cases i with
  | encData _ | encEnd _ => rfl
  | decSpace | decData _ | decEnd _ | lutFwd _ | lutRev _ | encPop | decPop | rst => cases hi

theorem opReady_of_isDecInput {i : Instr} (hi : isDecInput i = true) (s : State) :
    opReady i s = decInReady false s := by
  cases i with
  | decSpace | decData _ | decEnd _ => rfl
  | encData _ | encEnd _ | lutFwd _ | lutRev _ | encPop | decPop | rst => cases hi

/-! ## Runs of operations -/

theorem execAll_cons_next {i : Instr} {is : List Instr} {s t : State} (h : execAll (i :: is) s = .next t) :
    ∃ u, exec i s = .next u ∧ execAll is u = .next t := by
  unfold execAll at h
  split at h
  · exact ⟨_, ‹_›, h⟩
  · cases h
  · cases h

theorem execAll_cons_of_next {i : Instr} {s u : State} (is : List Instr) (h : exec i s = .next u) :
    execAll (i :: is) s = execAll is u := by
  rw [execAll, h]

theorem takenInputs_cons_of_next (isInput : Instr → Bool) (ready : State → Bool) {i : Instr} {s u : State}
    (is : List Instr) (h : exec i s = .next u) :
    takenInputs isInput ready (i :: is) s =
      if (isInput i && ready s) = true then i :: takenInputs isInput ready is u
      else takenInputs isInput ready is u := by
  rw [takenInputs, h]

/-! ## A channel whose words are the stream of the input beats it takes -/

section Stream

variable {σ : Type}

/-- What makes a channel's words a stream of its input beats: `Holds` relates the stream's own memory to the channel's
registers, an input beat that is taken adds the words the stream gives for it, and no other operation but RST matters
(20_memory.md R41, 70_reset_and_hazards.md R136). -/
structure StreamsItsInputs (isInput : Instr → Bool) (ready : State → Bool) (words : State → List OutWord)
    (stream : σ → List Instr → List OutWord) (Holds : σ → State → Prop) : Prop where
  nil : ∀ m, stream m [] = []
  on_channel : ∀ {i}, isInput i = true → (onEnc i || onDec i) = true
  ready_eq : ∀ {i}, isInput i = true → ∀ s, opReady i s = ready s
  pass : ∀ {m s}, Holds m s → Holds m s.pass ∧ words s.pass = words s
  retire : ∀ {m s}, Holds m s → Holds m s.retire ∧ words s.retire = words s
  taken : ∀ {m i s}, s.Inv → Holds m s → isInput i = true → ∃ m', Holds m' (opEffect i s) ∧
    ∀ is, words s ++ stream m (i :: is) = words (opEffect i s) ++ stream m' is
  other : ∀ {m i s}, Holds m s → isInput i = false → i ≠ .rst → opReady i s = true →
    Holds m (opEffect i s) ∧ words (opEffect i s) = words s

variable {isInput : Instr → Bool} {ready : State → Bool} {words : State → List OutWord}
  {stream : σ → List Instr → List OutWord} {Holds : σ → State → Prop}

/-- One operation adds to the channel's words those the stream gives for it, if it is an input beat taken. -/
theorem StreamsItsInputs.words_exec (C : StreamsItsInputs isInput ready words stream Holds) {m : σ}
    {i : Instr} {s t : State} (h : Holds m s) (hrst : i ≠ .rst) (hx : exec i s = .next t) : ∃ m', Holds m' t ∧ ∀ is,
      words s ++ stream m (if (isInput i && ready s) = true then i :: is else is) = words t ++ stream m' is := by
  obtain ⟨hlive, rfl⟩ := exec_next hx
  by_cases hr : opReady i s = true
  · rw [opNext_of_ready hr]
    cases hi : isInput i with
    | true =>
      obtain ⟨-, hinv⟩ := hlive (C.on_channel hi)
      obtain ⟨m', hm', heq⟩ := C.taken hinv h hi
      obtain ⟨hret, hwords⟩ := C.retire hm'
      rw [← C.ready_eq hi, hr, hwords]
      exact ⟨m', hret, heq⟩
    | false =>
      obtain ⟨hm, hother⟩ := C.other h hi hrst hr
      obtain ⟨hret, hwords⟩ := C.retire hm
      rw [hwords, hother]
      exact ⟨m, hret, fun _ => rfl⟩
  · have hwait : (isInput i && ready s) = false :=
      Bool.and_eq_false_imp.2 fun hi => C.ready_eq hi s ▸ Bool.eq_false_of_not_eq_true hr
    obtain ⟨hpass, hwords⟩ := C.pass h
    rw [opNext_of_not_ready hr, hwait, hwords]
    exact ⟨m, hpass, fun _ => rfl⟩

/-- A run without RST adds to the channel's words the stream of the input beats it takes. -/
theorem StreamsItsInputs.words_execAll (C : StreamsItsInputs isInput ready words stream Holds) (is : List Instr)
    {m : σ} {s t : State} (h : Holds m s) (hrst : Instr.rst ∉ is) (hx : execAll is s = .next t) :
    words t = words s ++ stream m (takenInputs isInput ready is s) := by
  induction is generalizing m s with
  | nil =>
    cases hx
    rw [takenInputs, C.nil, List.append_nil]
  | cons i is ih =>
    obtain ⟨hi, his⟩ := not_or.1 (mt List.mem_cons.2 hrst)
    obtain ⟨u, hu, ht⟩ := execAll_cons_next hx
    obtain ⟨m', hm', heq⟩ := C.words_exec h (Ne.symm hi) hu
    rw [ih hm' his ht, takenInputs_cons_of_next isInput ready is hu, ← heq]

end Stream

end Sys2Proof.Machine
end

section
/-! SUPPORT. What an operation does to its own channel depends on that channel alone, and when it answers a next state
(spec 20_memory.md R42). -/

namespace Sys2Proof.Machine

/-! ## The encoder -/

theorem encDataEffect_congr (d : Byte) {s t : State} (h : SameEnc s t) :
    SameEnc (encDataEffect d s) (encDataEffect d t) := by
  obtain ⟨hv, hc, hq⟩ := h
  simp only [encDataEffect, hv, hc]
  split
  · exact ⟨rfl, rfl, hq⟩
  · exact ⟨rfl, rfl, congrArg (· ++ _) hq⟩

theorem encTail_congr {s t : State} (h : SameEnc s t) : encTail t = encTail s := by
  obtain ⟨hv, hc, -⟩ := h
  rw [encTail, encTail, hv, hc]

theorem opEffect_congrEnc {i : Instr} (hi : onEnc i = true) {s t : State} (h : SameEnc s t) :
    SameEnc (opEffect i s) (opEffect i t) := by
  have ⟨hv, hc, hq⟩ := h
  cases i with
  | encData d => exact encDataEffect_congr d h
  | encEnd _ => exact ⟨rfl, rfl, by simp [opEffect, encEndEffect, encTail_congr h, hq]⟩
  | encPop => exact ⟨hv, hc, congrArg List.tail hq⟩
  | decSpace | decData _ | decEnd _ | lutFwd _ | lutRev _ | decPop | rst => cases hi

theorem opReady_congrEnc {i : Instr} (hi : onEnc i = true) {s t : State} (h : SameEnc s t)
    (hdepth : t.cfg.encOutqDepth = s.cfg.encOutqDepth) : opReady i t = opReady i s := by
  obtain ⟨-, -, hq⟩ := h
  cases i with
  | encData _ | encEnd _ => simp [opReady, encInReady, hq, hdepth]
  | encPop => simp [opReady, encOutValid, hq]
  | decSpace | decData _ | decEnd _ | lutFwd _ | lutRev _ | decPop | rst => cases hi

/-- An encoder operation leads from equal encoders of one depth to equal encoders. -/
theorem opNext_congrEnc {i : Instr} (hi : onEnc i = true) {s t : State} (h : SameEnc s t)
    (hdepth : t.cfg.encOutqDepth = s.cfg.encOutqDepth) : SameEnc (opNext i s) (opNext i t) := by
  simp only [opNext, opReady_congrEnc hi h hdepth]
  split
  · exact opEffect_congrEnc hi h
  · exact h

/-! ## The decoder -/

theorem completeGroup_congr (f : Fold) {s t : State} (h : SameDec s t) (hmode : t.cfg.ovfMode = s.cfg.ovfMode) :
    SameDec (completeGroup f s) (completeGroup f t) := by
  obtain ⟨-, -, hst, hq⟩ := h
  simp only [completeGroup, hmode, hst]
  split
  · exact ⟨rfl, rfl, rfl, hq⟩
  · exact ⟨rfl, rfl, rfl, congrArg (· ++ _) hq⟩

theorem decDataEffect_congr (c : Byte) {s t : State} (h : SameDec s t) (hmode : t.cfg.ovfMode = s.cfg.ovfMode) :
    SameDec (decDataEffect c s) (decDataEffect c t) := by
  have ⟨hacc, hcnt, hst, hq⟩ := h
  simp only [decDataEffect, decSymbolEffect, hacc, hcnt, hst]
  split
  · exact h
  · split
    · split
      · exact ⟨rfl, rfl, hst, hq⟩
      · exact completeGroup_congr _ h hmode
    · exact ⟨rfl, rfl, rfl, hq⟩

theorem decEndEffect_congr {s t : State} (h : SameDec s t) (hmode : t.cfg.ovfMode = s.cfg.ovfMode) :
    SameDec (decEndEffect s) (decEndEffect t) := by
  obtain ⟨hacc, hcnt, hst, hq⟩ := h
  exact ⟨rfl, rfl, rfl, by simp [decEndEffect, tailWords, hacc, hcnt, hst, hq, hmode]⟩

theorem opEffect_congrDec {i : Instr} (hi : onDec i = true) {s t : State} (h : SameDec s t)
    (hmode : t.cfg.ovfMode = s.cfg.ovfMode) : SameDec (opEffect i s) (opEffect i t) := by
  have ⟨hacc, hcnt, hst, hq⟩ := h
  cases i with
  | decSpace => exact h
  | decData c => exact decDataEffect_congr c h hmode
  | decEnd _ => exact decEndEffect_congr h hmode
  | decPop => exact ⟨hacc, hcnt, hst, congrArg List.tail hq⟩
  | encData _ | encEnd _ | lutFwd _ | lutRev _ | encPop | rst => cases hi

theorem opReady_congrDec {i : Instr} (hi : onDec i = true) {s t : State} (h : SameDec s t)
    (hdepth : t.cfg.decOutqDepth = s.cfg.decOutqDepth) : opReady i t = opReady i s := by
  obtain ⟨-, -, -, hq⟩ := h
  cases i with
  | decSpace | decData _ | decEnd _ => simp [opReady, decInReady, hq, hdepth]
  | decPop => simp [opReady, decOutValid, hq]
  | encData _ | encEnd _ | lutFwd _ | lutRev _ | encPop | rst => cases hi

/-- A decoder operation leads from equal decoders of one depth and mode to equal decoders. -/
theorem opNext_congrDec {i : Instr} (hi : onDec i = true) {s t : State} (h : SameDec s t)
    (hmode : t.cfg.ovfMode = s.cfg.ovfMode) (hdepth : t.cfg.decOutqDepth = s.cfg.decOutqDepth) :
    SameDec (opNext i s) (opNext i t) := by
  simp only [opNext, opReady_congrDec hi h hdepth]
  split
  · exact opEffect_congrDec hi h hmode
  · exact h

/-! ## When an operation answers a next state -/

/-- The word an operation would pop can have been emitted (30_encoding.md R57). -/
def popLegal : Instr → State → Prop
  | .encPop, s => encOutValid s = true → encWordLegal (encOutWord s) = true
  | .decPop, s => decOutValid s = true → decWordLegal s.cfg.ovfMode (decOutWord s) = true
  | _, _ => True

theorem popLegal_congrEnc {i : Instr} (hi : onEnc i = true) {s t : State} (h : SameEnc s t) (hp : popLegal i s) :
    popLegal i t := by
  obtain ⟨-, -, hq⟩ := h
  cases i with
  | encData _ | encEnd _ => trivial
  | encPop => simpa [popLegal, encOutValid, encOutWord, hq] using hp
  | decSpace | decData _ | decEnd _ | lutFwd _ | lutRev _ | decPop | rst => cases hi

theorem popLegal_congrDec {i : Instr} (hi : onDec i = true) {s t : State} (h : SameDec s t)
    (hmode : t.cfg.ovfMode = s.cfg.ovfMode) (hp : popLegal i s) : popLegal i t := by
  obtain ⟨-, -, -, hq⟩ := h
  cases i with
  | decSpace | decData _ | decEnd _ => trivial
  | decPop => simpa [popLegal, decOutValid, decOutWord, hq, hmode] using hp
  | encData _ | encEnd _ | lutFwd _ | lutRev _ | encPop | rst => cases hi

/-- Everything a channel's operation needs to answer a next state, and the state it answers. -/
theorem exec_eq_next_iff {i : Instr} (hi : (onEnc i || onDec i) = true) {s t : State} :
    exec i s = .next t ↔ s.Live ∧ popLegal i s ∧ t = opNext i s := by
  constructor
  · intro h
    obtain ⟨hl, ht⟩ := exec_next h
    refine ⟨hl hi, ?_, ht⟩
    cases i with
    | encPop | decPop =>
      obtain ⟨-, -, h⟩ := guarded_next h
      intro hvalid
      rw [if_pos hvalid] at h
      split at h
      · assumption
      · cases h
    | encData _ | encEnd _ | decSpace | decData _ | decEnd _ => trivial
    | lutFwd _ | lutRev _ | rst => cases hi
  · rintro ⟨⟨hseen, hinv⟩, hp, rfl⟩
    cases i with
    | encPop | decPop =>
      refine (guarded_of_live _ hseen hinv).trans ?_
      unfold opNext opReady
      split
      · next hvalid => rw [if_pos (hp hvalid)]; rfl
      · rfl
    | encData _ | encEnd _ | decSpace | decData _ | decEnd _ =>
      exact (guarded_of_live _ hseen hinv).trans (apply_ite Host.Outcome.next ..).symm
    | lutFwd _ | lutRev _ | rst => cases hi

/-- What an operation leads to from a live state is live. -/
theorem opNext_live (i : Instr) {s : State} (h : s.Live) : (opNext i s).Live := by
  obtain ⟨hseen, hinv⟩ := h
  unfold opNext
  split
  · next hr => exact ⟨opEffect_rstSeen i hseen, (State.retire_inv _).2 (opEffect_inv hinv i hr)⟩
  · exact ⟨hseen, s.pass_inv.2 hinv⟩

@[simp] theorem opNext_cfg (i : Instr) (s : State) : (opNext i s).cfg = s.cfg := by
  unfold opNext
  split
  · exact opEffect_cfg i s
  · rfl

/-! ## No operation of one channel is one of the other -/

theorem not_onDec_not_rst_of_onEnc {i : Instr} (hi : onEnc i = true) : onDec i = false ∧ i ≠ .rst := by
  cases i with
  | encData _ | encEnd _ | encPop => exact ⟨rfl, nofun⟩
  | decSpace | decData _ | decEnd _ | lutFwd _ | lutRev _ | decPop | rst => cases hi

theorem not_onEnc_not_rst_of_onDec {i : Instr} (hi : onDec i = true) : onEnc i = false ∧ i ≠ .rst := by
  cases i with
  | decSpace | decData _ | decEnd _ | decPop => exact ⟨rfl, nofun⟩
  | encData _ | encEnd _ | lutFwd _ | lutRev _ | encPop | rst => cases hi

/-! ## Agreement is an equivalence -/

theorem SameEnc.symm {s t : State} (h : SameEnc s t) : SameEnc t s := by
  obtain ⟨hv, hc, hq⟩ := h
  exact ⟨hv.symm, hc.symm, hq.symm⟩

theorem SameEnc.trans {s t u : State} (h : SameEnc s t) (k : SameEnc t u) : SameEnc s u := by
  obtain ⟨hv, hc, hq⟩ := h
  obtain ⟨kv, kc, kq⟩ := k
  exact ⟨kv.trans hv, kc.trans hc, kq.trans hq⟩

theorem SameDec.symm {s t : State} (h : SameDec s t) : SameDec t s := by
  obtain ⟨ha, hc, hst, hq⟩ := h
  exact ⟨ha.symm, hc.symm, hst.symm, hq.symm⟩

theorem SameDec.trans {s t u : State} (h : SameDec s t) (k : SameDec t u) : SameDec s u := by
  obtain ⟨ha, hc, hst, hq⟩ := h
  obtain ⟨ka, kc, kst, kq⟩ := k
  exact ⟨ka.trans ha, kc.trans hc, kst.trans hst, kq.trans hq⟩

end Sys2Proof.Machine
end

section
/-! SUPPORT. The encoder's registers and words against the bytes of the open chunk (spec 20_memory.md R36,
30_encoding.md R60, 41_encoder.md R75 to R79). -/

namespace Sys2Proof.Machine

/-! ## The chunk of the bytes so far -/

/-- The big-endian value of a chunk's bytes so far, the missing ones zero (20_memory.md R36). -/
def chunkOf (held : List Byte) : Chunk := be32 (held.getD 0 0) (held.getD 1 0) (held.getD 2 0) (held.getD 3 0)

theorem chunkOf_nil : chunkOf [] = 0 := by decide

theorem chunkOf_toNat (held : List Byte) :
    (chunkOf held).toNat = (held.getD 0 0).toNat * 2 ^ 24 + (held.getD 1 0).toNat * 2 ^ 16 +
      (held.getD 2 0).toNat * 2 ^ 8 + (held.getD 3 0).toNat :=
  be32_toNat _ _ _ _

/-- The missing bytes are zero (20_memory.md R36, 10_state.md R26). -/
theorem chunkOf_clear {held : List Byte} (h : held.length < 4) :
    (chunkOf held).toNat % 2 ^ (32 - 8 * held.length) = 0 := by
  rw [chunkOf_toNat]
  match held, h with
  | [], _ => rfl
  | [_], _ => simp
  | [_, _], _ | [_, _, _], _ =>
    simp
    omega

/-- The encoder's slot for the next byte is the one BE32 gives it (30_encoding.md R60, 41_encoder.md R75). -/
theorem placeByte_chunkOf {held : List Byte} (b : Byte) (h : held.length < 4) :
    placeByte (chunkOf held) held.length b = chunkOf (held ++ [b]) := by
  refine BitVec.eq_of_toNat_eq ?_
  rw [placeByte_toNat b h (chunkOf_clear h)]
  simp only [chunkOf_toNat]
  match held, h with
  | [], _ | [_], _ | [_, _], _ | [_, _, _], _ => simp

/-- A chunk of one to three bytes is encoded by its first symbols, one more than it has bytes (41_encoder.md R77). -/
theorem encodeBytes_of_length_lt {held : List Byte} (h : held.length < 4) :
    encodeBytes held =
      if held.length = 0 then [] else (encodeSyms (chunkOf held)).take (held.length + 1) := by
  match held, h with
  | [], _ | [_], _ | [_, _], _ | [_, _, _], _ => rfl

/-- A full chunk is encoded by its five symbols (41_encoder.md R78). -/
theorem encodeBytes_of_length_eq {held : List Byte} (h : held.length = 4) :
    encodeBytes held = encodeSyms (chunkOf held) := by
  match held, h with
  | [_, _, _, _], _ => exact List.append_nil _

/-! ## The registers hold the bytes of the open chunk -/

/-- The encoder's registers are those of an open chunk with these bytes (10_state.md R18, R19). -/
def EncHolds (held : List Byte) (s : State) : Prop := s.enc_cnt.val = held.length ∧ s.enc_v = chunkOf held

theorem EncHolds.length_lt {held : List Byte} {s : State} (h : EncHolds held s) : held.length < 4 :=
  h.left ▸ s.enc_cnt.isLt

theorem State.EncIdle.holds {s : State} (h : s.EncIdle) : EncHolds [] s := by
  obtain ⟨hv, hc⟩ := h
  exact ⟨by rw [hc]; rfl, by rw [hv, chunkOf_nil]⟩

/-- Only the encoder's input beats and RST write the chunk registers. -/
theorem EncHolds.of_regs {held : List Byte} {s t : State} (h : EncHolds held s) (hv : t.enc_v = s.enc_v)
    (hc : t.enc_cnt = s.enc_cnt) : EncHolds held t := by
  obtain ⟨hcnt, hchunk⟩ := h
  exact ⟨hc ▸ hcnt, hv ▸ hchunk⟩

/-- A byte that does not fill its chunk joins the bytes held (41_encoder.md R75). -/
theorem encDataEffect_open {held : List Byte} {s : State} (b : Byte) (h : EncHolds held s) (hlt : held.length < 3) :
    EncHolds (held ++ [b]) (encDataEffect b s) ∧ (encDataEffect b s).enc_q = s.enc_q := by
  obtain ⟨hcnt, hv⟩ := h
  rcases encDataEffect_cases b s with ⟨h3, heq⟩ | ⟨h3, -⟩
  · rw [heq]
    refine ⟨⟨?_, ?_⟩, rfl⟩
    · rw [State.setChunk_enc_cnt, Fin.val_add_one_of_lt' (by omega), hcnt, List.length_append, List.length_singleton]
    · rw [State.setChunk_enc_v, hv, hcnt, placeByte_chunkOf b (by omega)]
  · omega

/-- The byte that fills its chunk emits the chunk's five symbols (41_encoder.md R75, R78). -/
theorem encDataEffect_full {held : List Byte} {s : State} (b : Byte) (h : EncHolds held s) (hlt : held.length = 3) :
    (encDataEffect b s).EncIdle ∧
      (encDataEffect b s).enc_q = s.enc_q ++ (encodeSyms (chunkOf (held ++ [b]))).map dataW := by
  obtain ⟨hcnt, hv⟩ := h
  rcases encDataEffect_cases b s with ⟨h3, -⟩ | ⟨-, heq⟩
  · omega
  · rw [heq, hv, ← placeByte_chunkOf b (by omega), hlt]
    exact ⟨⟨rfl, rfl⟩, rfl⟩

/-- A live encoder with room takes a byte that does not fill its chunk, and has the same room after it. -/
theorem exec_encData_open {held : List Byte} {s : State} (b : Byte) (hl : s.Live)
    (hr : s.enc_q.length + 5 ≤ s.cfg.encOutqDepth) (h : EncHolds held s) (hlt : held.length < 3) :
    ∃ t, exec (.encData b) s = .next t ∧ t.Live ∧ EncHolds (held ++ [b]) t ∧ t.enc_q = s.enc_q ∧
      t.cfg = s.cfg := by
  obtain ⟨hseen, hinv⟩ := hl
  obtain ⟨hopen, hq⟩ := encDataEffect_open b h hlt
  exact ⟨(encDataEffect b s).retire, encBeat_taken _ hseen hinv hr,
    ⟨opEffect_rstSeen (.encData b) hseen, encDataEffect_inv b hinv hr⟩, hopen, hq, opEffect_cfg (.encData b) s⟩

/-- The tail's symbols are those of Encode of the bytes held (41_encoder.md R76, R77). -/
theorem encTail_of_holds {held : List Byte} {s : State} (h : EncHolds held s) :
    encTail s = (encodeBytes held).map dataW := by
  have hlt := h.length_lt
  obtain ⟨hcnt, hv⟩ := h
  rw [encTail, encodeBytes_of_length_lt hlt, hv, ← hcnt, apply_ite (List.map dataW)]
  simp only [Fin.val_eq_zero_iff, List.map_nil]

/-! ## The words taken and queued -/

/-- Words that join the queue join the sequence. -/
theorem encSequence_append {s t : State} {ws : List OutWord} (hret : t.returned = s.returned)
    (hq : t.enc_q = s.enc_q ++ ws) : encSequence t = encSequence s ++ ws := by
  rw [encSequence, encSequence, hret, hq, List.append_assoc]

/-- Where no word joins the queue the sequence stays. -/
theorem encSequence_eq {s t : State} (hret : t.returned = s.returned) (hq : t.enc_q = s.enc_q) :
    encSequence t = encSequence s := by
  rw [encSequence, encSequence, hret, hq]

/-- A word popped stays in the sequence: it was the first of those queued. -/
theorem encSequence_pop (s : State) (h : s.enc_q ≠ []) :
    encSequence (s.dropEnc.give (.encWord (encOutWord s))) = encSequence s := by
  obtain ⟨w, q, hq⟩ := List.exists_cons_of_ne_nil h
  simp [encSequence, encOutWord, encEvent, hq, wordsSinceCut_word]

/-- An operation that is no input beat of the encoder and no RST leaves the bytes held and the word sequence. -/
theorem opEffect_enc_of_not_input {held : List Byte} {i : Instr} {s : State} (h : EncHolds held s)
    (hi : isEncInput i = false) (hrst : i ≠ .rst) (hr : opReady i s = true) :
    EncHolds held (opEffect i s) ∧ encSequence (opEffect i s) = encSequence s := by
  cases i with
  | encData _ | encEnd _ => cases hi
  | rst => exact absurd rfl hrst
  | encPop => exact ⟨h, encSequence_pop s (by simpa [opReady, encOutValid] using hr)⟩
  | decData c =>
    obtain ⟨⟨hv, hc, hq⟩, -, hret, -⟩ := decDataEffect_frame c s
    exact ⟨h.of_regs hv hc, encSequence_eq (t := decDataEffect c s) hret hq⟩
  | lutFwd _ | lutRev _ | decPop => exact ⟨h, by simp [encSequence, opEffect, List.filterMap_cons, encEvent]⟩
  | decSpace | decEnd _ => exact ⟨h, rfl⟩

/-! ## The encoder's stream -/

/-- The words of an input beat the encoder takes are those its stream gives (41_encoder.md R75 to R79). -/
theorem encStream_taken {held : List Byte} {i : Instr} {s : State} (h : EncHolds held s) (hi : isEncInput i = true) :
    ∃ held', EncHolds held' (opEffect i s) ∧ ∀ is,
      encSequence s ++ encStream held (i :: is) = encSequence (opEffect i s) ++ encStream held' is := by
  cases i with
  | encData b =>
    obtain ⟨-, -, hret, -⟩ := encDataEffect_frame b s
    have hlen := h.length_lt
    by_cases hlt : held.length < 3
    · obtain ⟨hopen, hq⟩ := encDataEffect_open b h hlt
      refine ⟨_, hopen, fun is => ?_⟩
      rw [encStream, if_pos hlt, opEffect, encSequence_eq (t := encDataEffect b s) hret hq]
    · obtain ⟨hidle, hq⟩ := encDataEffect_full b h (by omega)
      have hfull : (held ++ [b]).length = 4 := by simp; omega
      refine ⟨[], hidle.holds, fun is => ?_⟩
      rw [encStream, if_neg hlt, encodeBytes_of_length_eq hfull, opEffect,
        encSequence_append (t := encDataEffect b s) hret hq, List.append_assoc]
  | encEnd r =>
    refine ⟨[], State.EncIdle.holds ⟨rfl, rfl⟩, fun is => ?_⟩
    have hq : (encEndEffect s).enc_q = s.enc_q ++ ((encodeBytes held).map dataW ++ [endW .ok]) := by
      rw [← encTail_of_holds h]
      rfl
    rw [encStream, opEffect, encSequence_append (s := s) (t := encEndEffect s) rfl hq]
    simp
  | decSpace | decData _ | decEnd _ | lutFwd _ | lutRev _ | encPop | decPop | rst => cases hi

/-- The encoder's words are the stream of its input beats. -/
theorem encStreamsItsInputs :
    StreamsItsInputs isEncInput (encInReady false) encSequence encStream EncHolds where
  nil _ := rfl
  on_channel hi := by
    rw [isEncInput, Bool.and_eq_true] at hi
    rw [hi.left, Bool.true_or]
  ready_eq hi s := opReady_of_isEncInput hi s
  pass h := ⟨h, rfl⟩
  retire h := ⟨h, rfl⟩
  taken _ h hi := encStream_taken h hi
  other h hi hrst hr := opEffect_enc_of_not_input h hi hrst hr

end Sys2Proof.Machine
end

section
/-! SUPPORT. The decoder's registers and words against the symbols of the open group (spec 42_decoder.md R85 to R98). -/

namespace Sys2Proof.Machine

/-! ## The fold of the symbols so far -/

/-- The digits of symbols (40_alphabet_lut.md R68). -/
def digitsOf (held : List Byte) : List Digit := held.map (fun c => (rev c).val)

theorem foldDigits_concat (vs : List Digit) (v : Digit) : foldDigits (vs ++ [v]) = foldDigits vs * 85 + v.toNat := by
  simp [foldDigits]

/-- Folding copies of 84 in closed form (42_decoder.md R95). -/
theorem foldDigits_append_replicate (vs : List Digit) (m : Nat) :
    foldDigits (vs ++ List.replicate m 84#7) = foldDigits vs * 85 ^ m + (85 ^ m - 1) := by
  induction m with
  | zero => simp
  | succ m ih =>
    have hpos : 0 < 85 ^ m := by positivity
    have h84 : (84#7).toNat = 84 := rfl
    rw [List.replicate_succ', ← List.append_assoc, foldDigits_concat, ih, h84, pow_succ]
    generalize 85 ^ m = p at hpos ⊢
    rw [← Nat.mul_assoc]
    omega

theorem groupFold_eq (g : List Byte) :
    groupFold g = foldDigits (digitsOf g) * 85 ^ (5 - g.length) + (85 ^ (5 - g.length) - 1) :=
  foldDigits_append_replicate _ _

/-! ## A group's result through Resolve -/

/-- The result of a group of `k` symbols that Resolve's answer stands for (42_decoder.md R94, R95). -/
def resolvedResult (k : Nat) : Resolved → FrameResult
  | .emit v st => .done ((bytesOf v).take (k - 1)) st
  | .overflow => .failed .overflow

/-- Where the hardware's fold is exact, its Resolve gives the group's result (42_decoder.md R85, R93). -/
theorem decodeGroup_eq_resolvedResult (mode : OvfMode) (st : Status) {g : List Byte} {t : Fold}
    (hok : ∀ c ∈ g, (rev c).ok = true) (ht : t.toNat = groupFold g) :
    decodeGroup mode st g = resolvedResult g.length (resolve mode st t) := by
  have hany : g.any (fun c => !(rev c).ok) = false := by simpa using hok
  have hv : BitVec.ofNat 32 (groupFold g) = t.setWidth 32 := by
    rw [← ht, BitVec.ofNat_toNat]
  unfold decodeGroup
  rw [hany, hv, ← ht, if_neg Bool.false_ne_true]
  by_cases hle : t.toNat ≤ 2 ^ 32 - 1
  · rw [if_pos hle, resolve_of_le mode st hle, resolvedResult]
  · rw [if_neg hle]
    cases mode with
    | wrap => rw [resolve_wrap st (by omega), resolvedResult]
    | fail => rw [resolve_fail st (by omega), resolvedResult]

/-- A full group leaves the decoder with the words and the status of its result (42_decoder.md R94). -/
theorem completeGroup_result (t : Fold) (s : State) :
    (completeGroup t s).dec_q =
        s.dec_q ++ groupWords false (resolvedResult 5 (resolve s.cfg.ovfMode s.dec_st t)) ∧
      (completeGroup t s).dec_st = groupStatus (resolvedResult 5 (resolve s.cfg.ovfMode s.dec_st t)) ∧
      (completeGroup t s).dec_cnt = 0 ∧ (completeGroup t s).dec_acc = 0 := by
  unfold completeGroup
  cases resolve s.cfg.ovfMode s.dec_st t with
  | overflow => exact ⟨(List.append_nil _).symm, rfl, rfl, rfl⟩
  | emit g st => exact ⟨congrArg (s.dec_q ++ ·) (List.append_nil _).symm, rfl, rfl, rfl⟩

/-- The words of a tail are those of its result (42_decoder.md R95). -/
theorem tailWords_result (s : State) :
    tailWords s = groupWords true (resolvedResult s.dec_cnt.val
      (resolve s.cfg.ovfMode s.dec_st (foldPadded s.dec_acc (5 - s.dec_cnt.val)))) := by
  unfold tailWords
  cases resolve s.cfg.ovfMode s.dec_st (foldPadded s.dec_acc (5 - s.dec_cnt.val)) <;> rfl

/-! ## The registers hold the symbols of the open group -/

/-- What the decoder's stream remembers: the symbols of the open group and the frame's status so far. -/
abbrev OpenGroup := List Byte × Status

/-- The decoder's registers are those of an open group with these symbols, all of the alphabet, under this status, in
this mode (10_state.md R21, R22, R23). -/
structure DecHolds (mode : OvfMode) (g : OpenGroup) (s : State) : Prop where
  mode_eq : s.cfg.ovfMode = mode
  status : s.dec_st = g.2
  count : s.dec_cnt.val = g.1.length
  acc : s.dec_acc.toNat = foldDigits (digitsOf g.1)
  valid : ∀ c ∈ g.1, (rev c).ok = true

/-- A cleared group holds no symbol. -/
theorem DecHolds.of_clear {s : State} {mode : OvfMode} {st : Status} (hmode : s.cfg.ovfMode = mode)
    (hst : s.dec_st = st) (hcnt : s.dec_cnt = 0) (hacc : s.dec_acc = 0) : DecHolds mode ([], st) s :=
  ⟨hmode, hst, by rw [hcnt]; rfl, by rw [hacc]; rfl, nofun⟩

/-- Only the decoder's input beats and RST write the group registers and the status. -/
theorem DecHolds.of_regs {mode : OvfMode} {g : OpenGroup} {s t : State} (h : DecHolds mode g s)
    (hcfg : t.cfg = s.cfg) (hacc : t.dec_acc = s.dec_acc) (hcnt : t.dec_cnt = s.dec_cnt) (hst : t.dec_st = s.dec_st) :
    DecHolds mode g t :=
  ⟨hcfg ▸ h.mode_eq, hst ▸ h.status, hcnt ▸ h.count, hacc ▸ h.acc, h.valid⟩

/-- A symbol that does not complete its group joins the symbols held (42_decoder.md R90). -/
theorem decDataEffect_open {mode : OvfMode} {held : List Byte} {st : Status} {s : State} {c : Byte} (hi : s.Inv)
    (h : DecHolds mode (held, st) s) (hst : st.failed = false) (hc : (rev c).ok = true) (hlt : held.length < 4) :
    DecHolds mode (held ++ [c], st) (decDataEffect c s) ∧ (decDataEffect c s).dec_q = s.dec_q := by
  have ⟨_, hbound, _⟩ := hi
  obtain ⟨hmode, rfl, hcnt, hacc, hvalid⟩ := h
  have hk : s.dec_cnt.val < 4 := hcnt ▸ hlt
  rw [decDataEffect_fold hst hc hk]
  refine ⟨⟨hmode, rfl, ?_, ?_, ?_⟩, rfl⟩
  · rw [State.setGroup_dec_cnt, Fin.val_add_one_of_lt' (by omega), hcnt, List.length_append, List.length_singleton]
  · have hsmall : s.dec_acc.toNat < 85 ^ 3 := hbound.trans_le (Nat.pow_le_pow_right (by norm_num) (by omega))
    have hval := rev_val_lt c
    rw [State.setGroup_dec_acc, BitVec.toNat_setWidth, foldStep_of_inv hi, Nat.mod_eq_of_lt (by omega), hacc, digitsOf,
      digitsOf, List.map_append, List.map_singleton, foldDigits_concat]
  · exact List.forall_mem_append.2 ⟨hvalid, List.forall_mem_singleton.2 hc⟩

/-- The fifth symbol gives the words and the status of its group's result (42_decoder.md R93, R94). -/
theorem decDataEffect_full {mode : OvfMode} {held : List Byte} {st : Status} {s : State} {c : Byte} (hi : s.Inv)
    (h : DecHolds mode (held, st) s) (hst : st.failed = false) (hc : (rev c).ok = true) (hlen : held.length = 4) :
    DecHolds mode ([], groupStatus (decodeGroup mode st (held ++ [c]))) (decDataEffect c s) ∧
      (decDataEffect c s).dec_q = s.dec_q ++ groupWords false (decodeGroup mode st (held ++ [c])) := by
  obtain ⟨hmode, rfl, hcnt, hacc, hvalid⟩ := h
  have hlen5 : (held ++ [c]).length = 5 := by simp [hlen]
  have ht : (foldStep s.dec_acc (rev c).val).toNat = groupFold (held ++ [c]) := by
    rw [foldStep_of_inv hi, groupFold_eq, hlen5, hacc, digitsOf, digitsOf, List.map_append, List.map_singleton,
      foldDigits_concat]
    simp
  have hok : ∀ d ∈ held ++ [c], (rev d).ok = true :=
    List.forall_mem_append.2 ⟨hvalid, List.forall_mem_singleton.2 hc⟩
  obtain ⟨-, ⟨hcfg, -⟩, -⟩ := completeGroup_frame (foldStep s.dec_acc (rev c).val) s
  obtain ⟨hq, hs, hcnt', hacc'⟩ := completeGroup_result (foldStep s.dec_acc (rev c).val) s
  rw [decDataEffect_group hst hc (hcnt.trans hlen), decodeGroup_eq_resolvedResult mode s.dec_st hok ht, hlen5,
    ← hmode]
  exact ⟨.of_clear (congrArg Config.ovfMode hcfg) hs hcnt' hacc', hq⟩

/-- The words of an open group's tail are those of its result (42_decoder.md R95). -/
theorem tailWords_of_holds {mode : OvfMode} {held : List Byte} {st : Status} {s : State} (hi : s.Inv)
    (h : DecHolds mode (held, st) s) : tailWords s = groupWords true (decodeGroup mode st held) := by
  obtain ⟨hmode, rfl, hcnt, hacc, hvalid⟩ := h
  have ht : (foldPadded s.dec_acc (5 - s.dec_cnt.val)).toNat = groupFold held := by
    rw [foldPadded_of_inv hi, groupFold_eq, hacc, hcnt]
  rw [tailWords_result, decodeGroup_eq_resolvedResult mode s.dec_st hvalid ht, hmode, hcnt]

/-! ## The words taken and queued -/

/-- Words that join the queue join the sequence. -/
theorem decSequence_append {s t : State} {ws : List OutWord} (hret : t.returned = s.returned)
    (hq : t.dec_q = s.dec_q ++ ws) : decSequence t = decSequence s ++ ws := by
  rw [decSequence, decSequence, hret, hq, List.append_assoc]

/-- Where no word joins the queue the sequence stays. -/
theorem decSequence_eq {s t : State} (hret : t.returned = s.returned) (hq : t.dec_q = s.dec_q) :
    decSequence t = decSequence s := by
  rw [decSequence, decSequence, hret, hq]

/-- A word popped stays in the sequence: it was the first of those queued. -/
theorem decSequence_pop (s : State) (h : s.dec_q ≠ []) :
    decSequence (s.dropDec.give (.decWord (decOutWord s))) = decSequence s := by
  obtain ⟨w, q, hq⟩ := List.exists_cons_of_ne_nil h
  simp [decSequence, decOutWord, decEvent, hq, wordsSinceCut_word]

/-- An operation that is no input beat of the decoder and no RST leaves the group registers, the status and the word
sequence. -/
theorem opEffect_dec_of_not_input {mode : OvfMode} {g : OpenGroup} {i : Instr} {s : State} (h : DecHolds mode g s)
    (hi : isDecInput i = false) (hrst : i ≠ .rst) (hr : opReady i s = true) :
    DecHolds mode g (opEffect i s) ∧ decSequence (opEffect i s) = decSequence s := by
  cases i with
  | decSpace | decData _ | decEnd _ => cases hi
  | rst => exact absurd rfl hrst
  | decPop => exact ⟨h.of_regs rfl rfl rfl rfl, decSequence_pop s (by simpa [opReady, decOutValid] using hr)⟩
  | encData d =>
    obtain ⟨⟨hacc, hcnt, hst, hq⟩, ⟨hcfg, -⟩, hret, -⟩ := encDataEffect_frame d s
    exact ⟨h.of_regs hcfg hacc hcnt hst, decSequence_eq (t := encDataEffect d s) hret hq⟩
  | lutFwd _ | lutRev _ | encPop =>
    exact ⟨h.of_regs rfl rfl rfl rfl, by simp [decSequence, opEffect, List.filterMap_cons, decEvent]⟩
  | encEnd _ => exact ⟨h.of_regs rfl rfl rfl rfl, rfl⟩

/-! ## The decoder's stream -/

/-- The decoder's stream, as a function of what it remembers. -/
def decStreamFrom (mode : OvfMode) (g : OpenGroup) (is : List Instr) : List OutWord := decStream mode g.1 g.2 is

/-- The words of a symbol beat the decoder takes are those its stream gives (42_decoder.md R90, R91). -/
theorem decStream_decData {mode : OvfMode} {g : OpenGroup} {s : State} (c : Byte) (hi : s.Inv)
    (h : DecHolds mode g s) : ∃ g', DecHolds mode g' (decDataEffect c s) ∧ ∀ is,
      decSequence s ++ decStreamFrom mode g (.decData c :: is) =
        decSequence (decDataEffect c s) ++ decStreamFrom mode g' is := by
  obtain ⟨held, st⟩ := g
  have hstatus : s.dec_st = st := h.status
  obtain ⟨-, -, hret, -⟩ := decDataEffect_frame c s
  cases hst : st.failed with
  | true =>
    rw [decDataEffect_drain c (hstatus ▸ hst)]
    exact ⟨_, h, fun is => by rw [decStreamFrom, decStream, if_pos hst]; rfl⟩
  | false =>
    cases hc : (rev c).ok with
    | false =>
      rw [decDataEffect_invalid (hstatus ▸ hst) hc]
      refine ⟨([], .invalidSymbol), .of_clear h.mode_eq rfl rfl rfl, fun is => ?_⟩
      rw [decSequence_eq (s := s) (t := failFrame .invalidSymbol s) rfl rfl]
      simp [decStreamFrom, decStream, hst, hc]
    | true =>
      by_cases hlt : held.length < 4
      · obtain ⟨hopen, hq⟩ := decDataEffect_open hi h hst hc hlt
        refine ⟨_, hopen, fun is => ?_⟩
        rw [decSequence_eq (t := decDataEffect c s) hret hq]
        simp [decStreamFrom, decStream, hst, hc, hlt]
      · have hlen : held.length = 4 := by
          have hcnt : s.dec_cnt.val = held.length := h.count
          have := s.dec_cnt.isLt
          omega
        obtain ⟨hclear, hq⟩ := decDataEffect_full hi h hst hc hlen
        refine ⟨_, hclear, fun is => ?_⟩
        rw [decSequence_append (t := decDataEffect c s) hret hq]
        simp [decStreamFrom, decStream, hst, hc, hlt]

/-- The words of an END beat the decoder takes are those its stream gives (42_decoder.md R92, R95). -/
theorem decEndWords_of_holds {mode : OvfMode} {held : List Byte} {st : Status} {s : State} (hi : s.Inv)
    (h : DecHolds mode (held, st) s) :
    (if s.dec_st.failed = true ∨ s.dec_cnt = 0 then [endW s.dec_st] else tailWords s) =
      if st.failed = true ∨ held = [] then [endW st] else groupWords true (decodeGroup mode st held) := by
  have hcnt : s.dec_cnt = 0 ↔ held = [] := by
    rw [← Fin.val_eq_zero_iff, h.count, List.length_eq_zero_iff]
  have hst : s.dec_st = st := h.status
  simp only [hcnt, hst, tailWords_of_holds hi h]

/-- The words of an input beat the decoder takes are those its stream gives (42_decoder.md R89 to R95). -/
theorem decStream_taken {mode : OvfMode} {g : OpenGroup} {i : Instr} {s : State} (hinv : s.Inv)
    (h : DecHolds mode g s) (hi : isDecInput i = true) :
    ∃ g', DecHolds mode g' (opEffect i s) ∧ ∀ is,
      decSequence s ++ decStreamFrom mode g (i :: is) = decSequence (opEffect i s) ++ decStreamFrom mode g' is := by
  cases i with
  | decSpace => exact ⟨g, h, fun _ => rfl⟩
  | decData c => exact decStream_decData c hinv h
  | decEnd r =>
    refine ⟨([], .ok), .of_clear h.mode_eq rfl rfl rfl, fun is => ?_⟩
    obtain ⟨held, st⟩ := g
    have hq : (decEndEffect s).dec_q = s.dec_q ++ _ := congrArg (s.dec_q ++ ·) (decEndWords_of_holds hinv h)
    rw [opEffect, decSequence_append (s := s) (t := decEndEffect s) rfl hq, List.append_assoc]
    rfl
  | encData _ | encEnd _ | lutFwd _ | lutRev _ | encPop | decPop | rst => cases hi

/-- The decoder's words are the stream of its input beats and of its mode. -/
theorem decStreamsItsInputs (mode : OvfMode) :
    StreamsItsInputs isDecInput (decInReady false) decSequence (decStreamFrom mode) (DecHolds mode) where
  nil _ := rfl
  on_channel hi := by
    rw [isDecInput, Bool.and_eq_true] at hi
    rw [hi.left, Bool.or_true]
  ready_eq hi s := opReady_of_isDecInput hi s
  pass h := ⟨h.of_regs rfl rfl rfl rfl, rfl⟩
  retire h := ⟨h.of_regs rfl rfl rfl rfl, rfl⟩
  taken hinv h hi := decStream_taken hinv h hi
  other h hi hrst hr := opEffect_dec_of_not_input h hi hrst hr

end Sys2Proof.Machine
end

section
/-! PROOFS. The statements of 20_memory.md: a channel's words, the bytes of a chunk and the independence of the two
channels. -/

namespace Sys2Proof.Proofs.Memory

open Sys2Proof.Machine

/-- Settles O23, by induction on the run: each operation adds the words the stream gives for its beat. -/
theorem encoderWordsDependOnTakenBeatsOnly : Obligations.EncoderWordsDependOnTakenBeatsOnly := by
  intro is s t _ hidle hrst hx
  exact encStreamsItsInputs.words_execAll is hidle.holds hrst hx

/-- Settles O31, by the same induction: the hardware's fold of each group is exact within R26. -/
theorem decoderWordsDependOnTakenBeatsOnly : Obligations.DecoderWordsDependOnTakenBeatsOnly := by
  intro is s t _ ⟨hacc, hcnt, hst⟩ hrst hx
  exact (decStreamsItsInputs s.cfg.ovfMode).words_execAll is (.of_clear rfl hst hcnt hacc) hrst hx

/-- Settles O18: the registers hold the chunk of the bytes so far, and the fourth byte emits it. -/
theorem chunkIsItsBytesInOrder : Obligations.ChunkIsItsBytesInOrder := by
  intro b0 b1 b2 b3 s hl hidle hroom
  have hr : s.enc_q.length + 5 ≤ s.cfg.encOutqDepth := by omega
  obtain ⟨t1, hx1, hl1, h1, hq1, hcfg1⟩ := exec_encData_open b0 hl hr hidle.holds (by decide)
  obtain ⟨t2, hx2, hl2, h2, hq2, hcfg2⟩ := exec_encData_open b1 hl1 (by rwa [hq1, hcfg1]) h1 (by simp)
  obtain ⟨t3, hx3, ⟨hseen3, hinv3⟩, h3, hq3, hcfg3⟩ :=
    exec_encData_open b2 hl2 (by rwa [hq2, hcfg2, hq1, hcfg1]) h2 (by simp)
  have hq : t3.enc_q = s.enc_q := hq3.trans (hq2.trans hq1)
  have hcfg : t3.cfg = s.cfg := hcfg3.trans (hcfg2.trans hcfg1)
  obtain ⟨⟨hv4, -⟩, hq4⟩ := encDataEffect_full b3 h3 (by simp)
  rw [hq] at hq4
  exact ⟨t1, t2, t3, (encDataEffect b3 t3).retire, hx1, h1.right, hx2, h2.right, hx3, h3.right,
    encBeat_taken _ hseen3 hinv3 (by rwa [hq, hcfg]), hv4, hq4⟩

/-- Settles O51: an operation leaves the other channel, and reads nothing but its own. -/
theorem channelsDoNotInterfere : Obligations.ChannelsDoNotInterfere := by
  intro i s t h hrst
  obtain ⟨-, rfl⟩ := exec_next h
  refine ⟨fun hi => opNext_sameEnc hi hrst s, fun hi => opNext_sameDec hi hrst s, fun s' t' h' => ?_⟩
  obtain ⟨-, rfl⟩ := exec_next h'
  constructor
  · intro hs hdepth
    cases hi : onEnc i with
    | true => exact opNext_congrEnc hi hs hdepth
    | false => exact ((opNext_sameEnc hi hrst s).symm.trans hs).trans (opNext_sameEnc hi hrst s')
  · intro hs hmode hdepth
    cases hi : onDec i with
    | true => exact opNext_congrDec hi hs hmode hdepth
    | false => exact ((opNext_sameDec hi hrst s).symm.trans hs).trans (opNext_sameDec hi hrst s')

/-- Settles O52: each of the two operations finds its channel as it would have found it first. -/
theorem channelsInterleaveInAnyOrder : Obligations.ChannelsInterleaveInAnyOrder := by
  intro i j s t hi hj h
  obtain ⟨hiDec, hiRst⟩ := not_onDec_not_rst_of_onEnc hi
  obtain ⟨hjEnc, hjRst⟩ := not_onEnc_not_rst_of_onDec hj
  obtain ⟨m, hm, h⟩ := execAll_cons_next h
  obtain ⟨u, hu, h⟩ := execAll_cons_next h
  cases h
  obtain ⟨hl, hpi, rfl⟩ := (exec_eq_next_iff (by simp [hi])).1 hm
  obtain ⟨-, hpj, rfl⟩ := (exec_eq_next_iff (by simp [hj])).1 hu
  have hdec : SameDec s (opNext i s) := opNext_sameDec hiDec hiRst s
  have henc : SameEnc s (opNext j s) := opNext_sameEnc hjEnc hjRst s
  have hj' : exec j s = .next (opNext j s) :=
    (exec_eq_next_iff (by simp [hj])).2 ⟨hl, popLegal_congrDec hj hdec.symm (by simp) hpj, rfl⟩
  have hi' : exec i (opNext j s) = .next (opNext i (opNext j s)) :=
    (exec_eq_next_iff (by simp [hi])).2 ⟨opNext_live j hl, popLegal_congrEnc hi henc hpi, rfl⟩
  refine ⟨opNext i (opNext j s), by rw [execAll_cons_of_next _ hj', execAll_cons_of_next _ hi', execAll], ?_, ?_⟩
  · exact (opNext_sameEnc hjEnc hjRst (opNext i s)).symm.trans (opNext_congrEnc hi henc (by simp))
  · exact (opNext_congrDec hj hdec (by simp) (by simp)).symm.trans (opNext_sameDec hiDec hiRst (opNext j s))

end Sys2Proof.Proofs.Memory
end

section
/-! SUPPORT. Words, their fields and the offers that carry them (spec 30_encoding.md R50, R54, R55, R62). -/

namespace Sys2Proof

/-! ## Input words -/

/-- A word's number is its byte, with 0x100 for an END beat (30_encoding.md R50). -/
theorem inWord_toNat (k : Bool) (d : Byte) : (inWord k d).toNat = (if k = true then 0x100 else 0) + d.toNat := by
  have happ : (inWord k d).toNat = (BitVec.ofBool k).toNat <<< 8 ||| d.toNat := BitVec.toNat_append _ _
  rw [happ, ← Nat.shiftLeft_add_eq_or_of_lt d.isLt]
  cases k <;> rfl

theorem inData_toNat (w : InWord) : (inData w).toNat = w.toNat % 0x100 := by
  simp [inData, BitVec.extractLsb'_toNat]

theorem inKind_eq_decide (w : InWord) : inKind w = decide (0x100 ≤ w.toNat) := by
  have hw := w.isLt
  rw [inKind, BitVec.getLsbD, Nat.testBit_eq_decide_div_mod_eq, decide_eq_decide]
  omega

@[simp] theorem inKind_inWord (k : Bool) (d : Byte) : inKind (inWord k d) = k := by
  have hd := d.isLt
  rw [inKind_eq_decide, inWord_toNat]
  cases k with
  | false => simpa using hd
  | true => simp

@[simp] theorem inData_inWord (k : Bool) (d : Byte) : inData (inWord k d) = d := by
  have hd := d.isLt
  refine BitVec.eq_of_toNat_eq ?_
  rw [inData_toNat, inWord_toNat]
  cases k with
  | false => simpa using hd
  | true => simpa using hd

/-- A word has no bit outside its two fields (30_encoding.md R50). -/
theorem inWord_inKind_inData (w : InWord) : inWord (inKind w) (inData w) = w := by
  have hw := w.isLt
  refine BitVec.eq_of_toNat_eq ?_
  simp only [inWord_toNat, inData_toNat, inKind_eq_decide, decide_eq_true_eq]
  split <;> omega

/-- Every word is made of its two fields. -/
theorem exists_eq_inWord (w : InWord) : ∃ k d, w = inWord k d := ⟨_, _, (inWord_inKind_inData w).symm⟩

/-! ## Reading a word by its fields -/

@[simp] theorem decodeEncIn_data (d : Byte) : decodeEncIn (inWord false d) = .encData d := by simp [decodeEncIn]

@[simp] theorem decodeEncIn_end (r : Byte) : decodeEncIn (inWord true r) = .encEnd r := by simp [decodeEncIn]

@[simp] theorem decodeDecIn_end (r : Byte) : decodeDecIn (inWord true r) = .decEnd r := by simp [decodeDecIn]

@[simp] theorem decodeDecIn_space : decodeDecIn (inWord false 0x20#8) = .decSpace := by simp [decodeDecIn]

theorem decodeDecIn_data {c : Byte} (h : c ≠ 0x20#8) : decodeDecIn (inWord false c) = .decData c := by
  simp [decodeDecIn, h]

/-! ## Decoding and encoding are inverse -/

/-- The offer of a well-formed operation is read as that operation: the one term shut out is DEC.DATA 0x20, whose word
is DEC.SPACE (30_encoding.md R54). -/
theorem decode_encode {i : Instr} (h : i.WellFormed) : decode (encode i) = i := by
  cases i with
  | encData d => exact decodeEncIn_data d
  | encEnd r => exact decodeEncIn_end r
  | decSpace => exact decodeDecIn_space
  | decData s => exact decodeDecIn_data (bne_iff_ne.1 h)
  | decEnd r => exact decodeDecIn_end r
  | lutFwd _ | lutRev _ | encPop | decPop | rst => rfl

/-- An input word is an operation's alone, and no word is DEC.DATA 0x20 (30_encoding.md R54, R62). -/
theorem wf_decode_and_encode_decode (o : Offer) : (decode o).WellFormed ∧ encode (decode o) = o := by
  cases o with
  | encIn w =>
    obtain ⟨k, d, rfl⟩ := exists_eq_inWord w
    cases k with
    | false => rw [decode, decodeEncIn_data]; exact ⟨rfl, rfl⟩
    | true => rw [decode, decodeEncIn_end]; exact ⟨rfl, rfl⟩
  | decIn w =>
    obtain ⟨k, d, rfl⟩ := exists_eq_inWord w
    cases k with
    | false =>
      by_cases hd : d = 0x20#8
      · rw [decode, hd, decodeDecIn_space]; exact ⟨rfl, rfl⟩
      · rw [decode, decodeDecIn_data hd]; exact ⟨bne_iff_ne.2 hd, rfl⟩
    | true => rw [decode, decodeDecIn_end]; exact ⟨rfl, rfl⟩
  | lutFwdIdx _ | lutRevSym _ | encOut | decOut | rst => exact ⟨rfl, rfl⟩

/-! ## The opcode table -/

@[simp] theorem inWord_and_kind (k : Bool) (d : Byte) :
    (inWord k d).toNat &&& 0x100 = if k = true then 0x100 else 0 := by
  have h := Nat.and_two_pow (inWord k d).toNat 8
  rw [show (inWord k d).toNat.testBit 8 = k from inKind_inWord k d] at h
  cases k <;> simpa using h

@[simp] theorem inWord_and_all (k : Bool) (d : Byte) : (inWord k d).toNat &&& 0x1FF = (inWord k d).toNat :=
  (Nat.and_two_pow_sub_one_eq_mod _ 9).trans (Nat.mod_eq_of_lt (inWord k d).isLt)

@[simp] theorem inWord_toNat_eq_space (k : Bool) (d : Byte) : (inWord k d).toNat = 0x20 ↔ k = false ∧ d = 0x20#8 := by
  have hd : d = 0x20#8 ↔ d.toNat = 0x20 := by rw [← BitVec.toNat_inj]; rfl
  rw [inWord_toNat, hd]
  cases k <;> simp
  omega

/-- A well-formed operation's offer is selected by the operation's own row and by no other (30_encoding.md R62). -/
theorem opcodeTable_filter_encode {i : Instr} (h : i.WellFormed) :
    opcodeTable.filter (fun r => r.selects (encode i)) = [opcodeRow i] := by
  cases i with
  | decData c =>
    have hc : c ≠ 0x20#8 := bne_iff_ne.1 h
    simp [opcodeTable, opcodeRow, OpcodeRow.selects, encode, Offer.port, Offer.bits, hc]
  | encData _ | encEnd _ | decSpace | decEnd _ | lutFwd _ | lutRev _ | encPop | decPop | rst =>
    simp [opcodeTable, opcodeRow, OpcodeRow.selects, encode, Offer.port, Offer.bits]

end Sys2Proof

namespace Sys2Proof.Machine

/-! ## Output words -/

/-- DataW(d) is `d` as a number (30_encoding.md R55). -/
theorem dataW_toNat (d : Byte) : (dataW d).toNat = d.toNat := by
  have happ : (dataW d).toNat = 0 <<< 8 ||| d.toNat := BitVec.toNat_append _ _
  rw [happ, Nat.zero_shiftLeft, Nat.zero_or]

/-- EndW(st) is 0x400 and the status code in bits 9 and 8, as a number (30_encoding.md R55). -/
theorem endW_toNat (st : Status) : (endW st).toNat = 0x400 + st.code.toNat * 0x100 := by
  cases st <;> rfl

/-! ## Placing a table word (log entry 8) -/

/-- Where a table word decodes, placing it is placing the offer it stands for. -/
theorem withFetchWord_of_decodeTableWord {nbits w : Nat} {i : Instr} (h : decodeTableWord nbits w = some i)
    (s : State) : ∃ o, decode o = i ∧ s.withFetchWord nbits w = placeOffer o s := by
  obtain ⟨o, ho, hi⟩ := Option.map_eq_some_iff.1 h
  exact ⟨o, hi, by rw [State.withFetchWord, ho]⟩

/-- The offer placed is run by the next step. -/
theorem step_placeOffer (o : Offer) (s : State) : step (placeOffer o s) = exec (decode o) (placeOffer o s) :=
  step_of_offer (offerOf_putOffer o s.actor s.agents)

end Sys2Proof.Machine
end

section
/-! PROOFS. The statements of 30_encoding.md on words, operations and the opcode table. -/

namespace Sys2Proof.Proofs.Encoding

open Sys2Proof.Machine

/-- Settles O1, by the fields of the word each operation is made by. -/
theorem encodedOperationDecodesBack : Obligations.EncodedOperationDecodesBack :=
  fun _ h => decode_encode h

/-- Settles O2, by the fields of the word on each port. -/
theorem decodedOfferEncodesBack : Obligations.DecodedOfferEncodesBack := wf_decode_and_encode_decode

/-- Settles O3: every offer is a well-formed operation's, which its own row alone selects. -/
theorem opcodeTableSelectsOneRow : Obligations.OpcodeTableSelectsOneRow := by
  intro o
  obtain ⟨hwf, henc⟩ := wf_decode_and_encode_decode o
  simpa only [henc] using opcodeTable_filter_encode hwf

/-- Settles O4: the two readers, with the fields `K` and `D` written as bits. -/
theorem inputWordsClassified : Obligations.InputWordsClassified :=
  fun _ => ⟨rfl, rfl⟩

/-- Settles O5, word by word. -/
theorem writtenWordsDecode : Obligations.WrittenWordsDecode :=
  ⟨rfl, rfl, rfl, rfl, rfl, rfl, rfl, rfl, rfl, rfl, rfl, rfl⟩

/-- Settles O7, by the fields of the two kinds of output word. -/
theorem outputWordFields : Obligations.OutputWordFields := by
  refine ⟨fun d => ?_, fun st => ?_, rfl, rfl, rfl, rfl⟩
  · exact ⟨outKind_dataW d, outStatus_dataW d, outData_dataW d, dataW_toNat d⟩
  · exact ⟨outKind_endW st, outStatus_endW st, outData_endW st, endW_toNat st⟩

/-- Settles O8: no END beat's effect reads its reserved field. -/
theorem reservedFieldIgnored : Obligations.ReservedFieldIgnored := by
  intro r s
  simp only [decode, decodeEncIn_end, decodeDecIn_end]
  exact ⟨rfl, rfl⟩

/-- Settles O10: a table word that decodes is an offer placed first, and placing writes the agents' lists alone. -/
theorem placedTableWordRunsNext : Obligations.PlacedTableWordRunsNext := by
  intro s nbits w i h
  obtain ⟨o, rfl, hplaced⟩ := withFetchWord_of_decodeTableWord h s
  rw [hplaced]
  exact ⟨step_placeOffer o s, ⟨rfl, rfl, rfl⟩, ⟨rfl, rfl, rfl, rfl⟩, ⟨rfl, rfl⟩, rfl⟩

end Sys2Proof.Proofs.Encoding
end

section
/-! SUPPORT. The words an operation queues, the words at the heads of the queues and safe states (spec 30_encoding.md
R49, R57, 60_exceptions.md R121). -/

namespace Sys2Proof.Machine

/-! ## The words an operation queues -/

theorem encWordLegal_of_mem_map_dataW {ds : List Byte} {w : OutWord} (h : w ∈ ds.map dataW) :
    encWordLegal w = true := by
  obtain ⟨d, -, rfl⟩ := List.mem_map.1 h
  exact encWordLegal_dataW d

theorem decWordLegal_of_mem_map_dataW {mode : OvfMode} {ds : List Byte} {w : OutWord} (h : w ∈ ds.map dataW) :
    decWordLegal mode w = true := by
  obtain ⟨d, -, rfl⟩ := List.mem_map.1 h
  exact decWordLegal_dataW mode d

/-- DATA words and then an END word with OK, or DATA words alone, are legal on `enc_out` (30_encoding.md R57). -/
theorem encTail_legal (s : State) : ∀ w ∈ encTail s ++ [endW .ok], encWordLegal w = true := by
  refine List.forall_mem_append.2 ⟨fun w hw => ?_, List.forall_mem_singleton.2 ((encWordLegal_endW .ok).2 rfl)⟩
  unfold encTail at hw
  split at hw
  · cases hw
  · exact encWordLegal_of_mem_map_dataW hw

/-- The words of DEC.END are legal on `dec_out`, if the status is one of its mode (30_encoding.md R57). -/
theorem decEndWords_legal {s : State} (h : s.StatusOfMode) :
    ∀ w ∈ if s.dec_st.failed = true ∨ s.dec_cnt = 0 then [endW s.dec_st] else tailWords s,
      decWordLegal s.cfg.ovfMode w = true := by
  have hend : ∀ {st}, statusLegal s.cfg.ovfMode st = true → ∀ w ∈ [endW st], decWordLegal s.cfg.ovfMode w = true :=
    fun hst => List.forall_mem_singleton.2 ((decWordLegal_endW _ _).trans hst)
  split
  · exact hend h
  · rcases tailWords_cases s with ⟨heq, hmode⟩ | ⟨st, heq, hst⟩ <;> rw [heq]
    · exact hend (by rw [hmode]; rfl)
    · exact List.forall_mem_append.2 ⟨fun w => decWordLegal_of_mem_map_dataW, hend (statusLegal_resolved h hst)⟩

/-- An operation other than the encoder's pop and RST appends at most 5 words to the encoder's queue, all legal
(30_encoding.md R57, 70_reset_and_hazards.md R135). -/
theorem opEffect_enc_q {i : Instr} (hpop : i ≠ .encPop) (hrst : i ≠ .rst) (s : State) :
    ∃ ws, (opEffect i s).enc_q = s.enc_q ++ ws ∧ ws.length ≤ 5 ∧ ∀ w ∈ ws, encWordLegal w = true := by
  cases hi : onEnc i with
  | false =>
    obtain ⟨-, -, hq⟩ := opEffect_sameEnc hi hrst s
    exact ⟨[], by rw [hq, List.append_nil], Nat.zero_le _, nofun⟩
  | true =>
    cases i with
    | encData d =>
      rcases encDataEffect_cases d s with ⟨-, heq⟩ | ⟨-, heq⟩
      · exact ⟨[], by rw [opEffect, heq]; exact (List.append_nil _).symm, Nat.zero_le _, nofun⟩
      · exact ⟨_, by rw [opEffect, heq]; rfl, by simp, fun w => encWordLegal_of_mem_map_dataW⟩
    | encEnd r =>
      have hlen := encTail_length s
      exact ⟨_, rfl, by simp; omega, encTail_legal s⟩
    | encPop => exact absurd rfl hpop
    | decSpace | decData _ | decEnd _ | lutFwd _ | lutRev _ | decPop | rst => cases hi

/-- An accepted symbol queues nothing and is at most one more symbol of its group, or it is the fifth one, which queues
the group's four bytes (42_decoder.md R90, R94). -/
theorem decDataEffect_queue_cases (c : Byte) (s : State) :
    ((decDataEffect c s).dec_q = s.dec_q ∧ (decDataEffect c s).dec_cnt.val ≤ s.dec_cnt.val + 1) ∨
    (s.dec_cnt.val = 4 ∧ (decDataEffect c s).dec_cnt = 0 ∧
      ∃ g, (decDataEffect c s).dec_q = s.dec_q ++ (bytesOf g).map dataW) := by
  cases hst : s.dec_st.failed with
  | true =>
    rw [decDataEffect_drain c hst]
    exact .inl ⟨rfl, Nat.le_succ _⟩
  | false =>
    cases hc : (rev c).ok with
    | false =>
      rw [decDataEffect_invalid hst hc]
      exact .inl ⟨rfl, Nat.zero_le _⟩
    | true =>
      by_cases hk : s.dec_cnt.val < 4
      · rw [decDataEffect_fold hst hc hk]
        exact .inl ⟨rfl, (Fin.val_add_one_of_lt' (by omega)).le⟩
      · have hk4 : s.dec_cnt.val = 4 := by have := s.dec_cnt.isLt; omega
        rw [decDataEffect_group hst hc hk4]
        rcases completeGroup_cases (foldStep s.dec_acc (rev c).val) s with ⟨heq, -⟩ | ⟨st, heq, -⟩ <;> rw [heq]
        · exact .inl ⟨rfl, Nat.zero_le _⟩
        · exact .inr ⟨hk4, rfl, _, rfl⟩

/-- An operation other than the decoder's pop and RST appends at most 4 words to the decoder's queue, all legal if the
status is one of its mode (30_encoding.md R57, 70_reset_and_hazards.md R135). -/
theorem opEffect_dec_q {i : Instr} (hpop : i ≠ .decPop) (hrst : i ≠ .rst) (s : State) :
    ∃ ws, (opEffect i s).dec_q = s.dec_q ++ ws ∧ ws.length ≤ 4 ∧
      (s.StatusOfMode → ∀ w ∈ ws, decWordLegal s.cfg.ovfMode w = true) := by
  cases hi : onDec i with
  | false =>
    obtain ⟨-, -, -, hq⟩ := opEffect_sameDec hi hrst s
    exact ⟨[], by rw [hq, List.append_nil], Nat.zero_le _, nofun⟩
  | true =>
    cases i with
    | decSpace => exact ⟨[], (List.append_nil _).symm, Nat.zero_le _, nofun⟩
    | decData c =>
      rcases decDataEffect_queue_cases c s with ⟨hq, -⟩ | ⟨-, -, g, hq⟩
      · exact ⟨[], hq.trans (List.append_nil _).symm, Nat.zero_le _, nofun⟩
      · exact ⟨_, hq, by simp, fun _ w => decWordLegal_of_mem_map_dataW⟩
    | decEnd r => exact ⟨_, rfl, decEndWords_length s, decEndWords_legal⟩
    | decPop => exact absurd rfl hpop
    | encData _ | encEnd _ | lutFwd _ | lutRev _ | encPop | rst => cases hi

/-! ## Safe states -/

/-- No operation queues a word that is never emitted (30_encoding.md R57). -/
theorem opEffect_wordsLegal (i : Instr) {s : State} (hst : s.StatusOfMode) (h : s.WordsLegal) :
    (opEffect i s).WordsLegal := by
  obtain ⟨henc, hdec⟩ := h
  by_cases hrst : i = .rst
  · subst hrst
    exact ⟨nofun, nofun⟩
  constructor
  · by_cases hpop : i = .encPop
    · subst hpop
      exact fun w hw => henc w (List.mem_of_mem_tail hw)
    · obtain ⟨ws, hq, -, hws⟩ := opEffect_enc_q hpop hrst s
      rw [hq]
      exact List.forall_mem_append.2 ⟨henc, hws⟩
  · by_cases hpop : i = .decPop
    · subst hpop
      exact fun w hw => hdec w (List.mem_of_mem_tail hw)
    · obtain ⟨ws, hq, -, hws⟩ := opEffect_dec_q hpop hrst s
      rw [hq, opEffect_cfg]
      exact List.forall_mem_append.2 ⟨hdec, hws hst⟩

theorem opNext_safe (i : Instr) {s : State} (h : s.Safe) : (opNext i s).Safe := by
  obtain ⟨hlive, hwords⟩ := h
  refine ⟨opNext_live i hlive, ?_⟩
  obtain ⟨-, -, -, -, hst, -⟩ := hlive
  unfold opNext
  split
  · exact opEffect_wordsLegal i hst hwords
  · exact hwords

/-- The word at the head of a safe state's queue can be popped (30_encoding.md R57, 60_exceptions.md R121). -/
theorem State.Safe.popLegal {s : State} (h : s.Safe) (i : Instr) : popLegal i s := by
  obtain ⟨-, henc, hdec⟩ := h
  cases i with
  | encPop =>
    intro hv
    obtain ⟨w, q, hq⟩ := List.exists_cons_of_ne_nil (l := s.enc_q) (by simpa [encOutValid] using hv)
    simpa [encOutWord, hq] using henc w (by simp [hq])
  | decPop =>
    intro hv
    obtain ⟨w, q, hq⟩ := List.exists_cons_of_ne_nil (l := s.dec_q) (by simpa [decOutValid] using hv)
    simpa [decOutWord, hq] using hdec w (by simp [hq])
  | encData _ | encEnd _ | decSpace | decData _ | decEnd _ | lutFwd _ | lutRev _ | rst => trivial

/-- No operation stops in a safe state (60_exceptions.md R121). -/
theorem exec_of_safe (i : Instr) {s : State} (h : s.Safe) : exec i s = .next (opNext i s) := by
  cases hi : onEnc i || onDec i with
  | true => exact (exec_eq_next_iff hi).2 ⟨h.left, h.popLegal i, rfl⟩
  | false =>
    cases i with
    | lutFwd _ | lutRev _ | rst => rfl
    | encData _ | encEnd _ | decSpace | decData _ | decEnd _ | encPop | decPop => cases hi

/-- An illegal word at the head of a live state's queue stops its pop (60_exceptions.md R121; log entry 10). -/
theorem execEncPop_illegal {w : OutWord} {q : List OutWord} {s : State} (h : s.Live) (hq : s.enc_q = w :: q)
    (hw : encWordLegal w = false) : execEncPop s = .fault (.illegalOutputWord w) := by
  obtain ⟨hseen, hinv⟩ := h
  rw [execEncPop, guarded_of_live _ hseen hinv]
  simp [encOutValid, encOutWord, hq, hw]

theorem execDecPop_illegal {w : OutWord} {q : List OutWord} {s : State} (h : s.Live) (hq : s.dec_q = w :: q)
    (hw : decWordLegal s.cfg.ovfMode w = false) : execDecPop s = .fault (.illegalOutputWord w) := by
  obtain ⟨hseen, hinv⟩ := h
  rw [execDecPop, guarded_of_live _ hseen hinv]
  simp [decOutValid, decOutWord, hq, hw]

/-! ## The words at the heads of the queues -/

/-- A word offered on `enc_out` in `s` is offered in `t` too. -/
def EncHeadHeld (s t : State) : Prop := encOutValid s = true → encOutValid t = true ∧ encOutWord t = encOutWord s

/-- A word offered on `dec_out` in `s` is offered in `t` too. -/
def DecHeadHeld (s t : State) : Prop := decOutValid s = true → decOutValid t = true ∧ decOutWord t = decOutWord s

theorem EncHeadHeld.of_append {s t : State} {ws : List OutWord} (h : t.enc_q = s.enc_q ++ ws) : EncHeadHeld s t := by
  intro hv
  obtain ⟨w, q, hq⟩ := List.exists_cons_of_ne_nil (l := s.enc_q) (by simpa [encOutValid] using hv)
  simp [encOutValid, encOutWord, h, hq]

theorem DecHeadHeld.of_append {s t : State} {ws : List OutWord} (h : t.dec_q = s.dec_q ++ ws) : DecHeadHeld s t := by
  intro hv
  obtain ⟨w, q, hq⟩ := List.exists_cons_of_ne_nil (l := s.dec_q) (by simpa [decOutValid] using hv)
  simp [decOutValid, decOutWord, h, hq]

theorem DecHeadHeld.trans {s t u : State} (h : DecHeadHeld s t) (k : DecHeadHeld t u) : DecHeadHeld s u := by
  intro hv
  obtain ⟨hvt, hwt⟩ := h hv
  obtain ⟨hvu, hwu⟩ := k hvt
  exact ⟨hvu, hwu.trans hwt⟩

/-- An offered word stays at the head of its queue until its own pop or a reset (30_encoding.md R49). -/
theorem opNext_encHeadHeld {i : Instr} (hpop : i ≠ .encPop) (hrst : i ≠ .rst) (s : State) :
    EncHeadHeld s (opNext i s) := by
  unfold opNext
  split
  · obtain ⟨ws, hq, -⟩ := opEffect_enc_q hpop hrst s
    exact .of_append (t := (opEffect i s).retire) hq
  · exact fun hv => ⟨hv, rfl⟩

theorem opNext_decHeadHeld {i : Instr} (hpop : i ≠ .decPop) (hrst : i ≠ .rst) (s : State) :
    DecHeadHeld s (opNext i s) := by
  unfold opNext
  split
  · obtain ⟨ws, hq, -⟩ := opEffect_dec_q hpop hrst s
    exact .of_append (t := (opEffect i s).retire) hq
  · exact fun hv => ⟨hv, rfl⟩

end Sys2Proof.Machine
end

section
/-! PROOFS. The statements of 30_encoding.md on the words queued and offered: safe states, the heads of the queues. -/

namespace Sys2Proof.Proofs.Encoding

open Sys2Proof.Machine

/-- Settles O49: no operation stops in a safe state, keeps R26 and queues legal words only. -/
theorem safeStatesStepToSafeStates : Obligations.SafeStatesStepToSafeStates := by
  intro s h
  cases ho : offerOf s.agents s.actor with
  | some o => exact ⟨opNext (decode o) s, (step_of_offer ho).trans (exec_of_safe _ h), opNext_safe _ h⟩
  | none => exact ⟨s.pass, step_of_no_offer ho, h⟩

/-- Settles O40: every operation but the channel's pop and RST appends to its queue. -/
theorem outputWordHeldUntilPopped : Obligations.OutputWordHeldUntilPopped := by
  intro i s t h hrst
  obtain ⟨-, rfl⟩ := exec_next h
  exact ⟨fun hpop => opNext_encHeadHeld hpop hrst s, fun hpop => opNext_decHeadHeld hpop hrst s⟩

/-- Settles O38: a live state's pop looks at the word at the head. -/
theorem illegalOutputWordsFault : Obligations.IllegalOutputWordsFault :=
  fun _ _ _ h => ⟨execEncPop_illegal h, execDecPop_illegal h⟩

end Sys2Proof.Proofs.Encoding
end

section
/-! SUPPORT. The handshakes of a rising edge in a safe state (spec 30_encoding.md R49, 43_stream_control.md R102,
R103). -/

namespace Sys2Proof.Machine

theorem execAll_append_of_next {is : List Instr} {s u : State} (js : List Instr) (h : execAll is s = .next u) :
    execAll (is ++ js) s = execAll js u := by
  induction is generalizing s with
  | nil => cases h; rfl
  | cons i is ih =>
    obtain ⟨v, hv, h⟩ := execAll_cons_next h
    rw [List.cons_append, execAll_cons_of_next _ hv, ih h]

/-! ## Input beats -/

theorem isEncInput_decode_encIn (w : InWord) : isEncInput (decode (.encIn w)) = true := by
  obtain ⟨k, d, rfl⟩ := exists_eq_inWord w
  cases k <;> simp [decode] <;> rfl

theorem isDecInput_decode_decIn (w : InWord) : isDecInput (decode (.decIn w)) = true := by
  rw [decode, decodeDecIn]
  split
  · rfl
  · split <;> rfl

theorem not_pop_not_rst_of_input {i : Instr} (hi : (isEncInput i || isDecInput i) = true) :
    i ≠ .encPop ∧ i ≠ .decPop ∧ i ≠ .rst := by
  cases i with
  | encData _ | encEnd _ | decSpace | decData _ | decEnd _ => exact ⟨nofun, nofun, nofun⟩
  | lutFwd _ | lutRev _ | encPop | decPop | rst => cases hi

/-- An input beat gives the host nothing back (43_stream_control.md R107). -/
theorem opEffect_returned_of_input {i : Instr} (hi : (isEncInput i || isDecInput i) = true) (s : State) :
    (opEffect i s).returned = s.returned := by
  cases i with
  | encData d =>
    obtain ⟨-, -, hret, -⟩ := encDataEffect_frame d s
    exact hret
  | decData c =>
    obtain ⟨-, -, hret, -⟩ := decDataEffect_frame c s
    exact hret
  | encEnd _ | decSpace | decEnd _ => rfl
  | lutFwd _ | lutRev _ | encPop | decPop | rst => cases hi

theorem opNext_returned_of_input {i : Instr} (hi : (isEncInput i || isDecInput i) = true) (s : State) :
    (opNext i s).returned = s.returned := by
  unfold opNext
  split
  · exact opEffect_returned_of_input hi s
  · rfl

/-! ## One handshake of an edge -/

/-- The state after a handshake of an edge, if it takes place. -/
def afterHandshake (taken : Bool) (o : Offer) (s : State) : State := if taken = true then opNext (decode o) s else s

theorem execAll_beatIf (taken : Bool) (o : Offer) {s : State} (h : s.Safe) :
    execAll ((beatIf taken o).map decode) s = .next (afterHandshake taken o s) := by
  cases taken with
  | true => exact execAll_cons_of_next [] (exec_of_safe (decode o) h)
  | false => rfl

theorem afterHandshake_safe (taken : Bool) (o : Offer) {s : State} (h : s.Safe) : (afterHandshake taken o s).Safe := by
  cases taken with
  | true => exact opNext_safe (decode o) h
  | false => exact h

theorem afterHandshake_encHeadHeld (taken : Bool) {o : Offer} (hpop : decode o ≠ .encPop) (hrst : decode o ≠ .rst)
    (s : State) : EncHeadHeld s (afterHandshake taken o s) := by
  cases taken with
  | true => exact opNext_encHeadHeld hpop hrst s
  | false => exact fun hv => ⟨hv, rfl⟩

theorem afterHandshake_decHeadHeld (taken : Bool) {o : Offer} (hpop : decode o ≠ .decPop) (hrst : decode o ≠ .rst)
    (s : State) : DecHeadHeld s (afterHandshake taken o s) := by
  cases taken with
  | true => exact opNext_decHeadHeld hpop hrst s
  | false => exact fun hv => ⟨hv, rfl⟩

theorem afterHandshake_returned_of_input (taken : Bool) {o : Offer}
    (hi : (isEncInput (decode o) || isDecInput (decode o)) = true) (s : State) :
    (afterHandshake taken o s).returned = s.returned := by
  cases taken with
  | true => exact opNext_returned_of_input hi s
  | false => rfl

/-- ENC.POP gives the head of the queue, which was there when the handshakes before it began. -/
theorem afterHandshake_encOut_returned (ready : Bool) {s t : State} (h : EncHeadHeld s t) :
    (afterHandshake (encOutValid s && ready) .encOut t).returned =
      t.returned ++ if (encOutValid s && ready) = true then [.encWord (encOutWord s)] else [] := by
  cases hb : encOutValid s && ready with
  | true =>
    obtain ⟨hvalid, hword⟩ := h (Bool.and_elim_left hb)
    have hnext : opNext .encPop t = _ := opNext_of_ready hvalid
    rw [afterHandshake, if_pos rfl, if_pos rfl, decode, hnext, ← hword]
    rfl
  | false => exact (List.append_nil _).symm

/-- DEC.POP gives the head of the queue, which was there when the handshakes before it began. -/
theorem afterHandshake_decOut_returned (ready : Bool) {s t : State} (h : DecHeadHeld s t) :
    (afterHandshake (decOutValid s && ready) .decOut t).returned =
      t.returned ++ if (decOutValid s && ready) = true then [.decWord (decOutWord s)] else [] := by
  cases hb : decOutValid s && ready with
  | true =>
    obtain ⟨hvalid, hword⟩ := h (Bool.and_elim_left hb)
    have hnext : opNext .decPop t = _ := opNext_of_ready hvalid
    rw [afterHandshake, if_pos rfl, if_pos rfl, decode, hnext, ← hword]
    rfl
  | false => exact (List.append_nil _).symm

/-! ## The whole edge -/

/-- After a reset a handshake is both sides' `valid` and `ready` (30_encoding.md R49). -/
theorem handshake_of_rstSeen {s : State} (h : s.rstSeen = true) (driven answered : Bool) :
    handshake s driven answered = (answered && driven) := by
  simp [handshake, h, Bool.and_comm]

/-- The state an edge without `rst` leads to, one handshake after another (log entry 11). -/
def afterEdge (p : PinInputs) (s : State) : State :=
  let t1 := afterHandshake (encInReady false s && p.enc_in_valid) (.encIn p.enc_in_word) s
  let t2 := afterHandshake (encOutValid s && p.enc_out_ready) .encOut t1
  let t3 := afterHandshake (decInReady false s && p.dec_in_valid) (.decIn p.dec_in_word) t2
  afterHandshake (decOutValid s && p.dec_out_ready) .decOut t3

theorem edge_of_safe {p : PinInputs} {s : State} (hrst : p.rst = false) (h : s.Safe) :
    edge p s = .next (afterEdge p s) := by
  have ⟨⟨hseen, _⟩, _⟩ := h
  simp only [edge, edgeOffers, hrst, handshake_of_rstSeen hseen, List.map_append, Bool.false_eq_true, if_false,
    List.append_assoc]
  have h1 := afterHandshake_safe (encInReady false s && p.enc_in_valid) (.encIn p.enc_in_word) h
  have h2 := afterHandshake_safe (encOutValid s && p.enc_out_ready) .encOut h1
  have h3 := afterHandshake_safe (decInReady false s && p.dec_in_valid) (.decIn p.dec_in_word) h2
  rw [execAll_append_of_next _ (execAll_beatIf _ _ h), execAll_append_of_next _ (execAll_beatIf _ _ h1),
    execAll_append_of_next _ (execAll_beatIf _ _ h2), execAll_beatIf _ _ h3]
  rfl

theorem afterEdge_safe (p : PinInputs) {s : State} (h : s.Safe) : (afterEdge p s).Safe :=
  afterHandshake_safe _ _ (afterHandshake_safe _ _ (afterHandshake_safe _ _ (afterHandshake_safe _ _ h)))

/-- The host gets the heads the queues had before the edge: no handshake of the edge but its own pop moves a head. -/
theorem afterEdge_returned (p : PinInputs) (s : State) :
    (afterEdge p s).returned = s.returned ++
      (if (encOutValid s && p.enc_out_ready) = true then [.encWord (encOutWord s)] else []) ++
      (if (decOutValid s && p.dec_out_ready) = true then [.decWord (decOutWord s)] else []) := by
  have hin : (isEncInput (decode (.encIn p.enc_in_word)) || isDecInput (decode (.encIn p.enc_in_word))) = true := by
    rw [isEncInput_decode_encIn, Bool.true_or]
  have hdin : (isEncInput (decode (.decIn p.dec_in_word)) || isDecInput (decode (.decIn p.dec_in_word))) = true := by
    rw [isDecInput_decode_decIn, Bool.or_true]
  obtain ⟨henc, hdec, hrst⟩ := not_pop_not_rst_of_input hin
  obtain ⟨-, hdec', hrst'⟩ := not_pop_not_rst_of_input hdin
  have hheld : DecHeadHeld s _ :=
    ((afterHandshake_decHeadHeld (encInReady false s && p.enc_in_valid) hdec hrst s).trans
      (afterHandshake_decHeadHeld (encOutValid s && p.enc_out_ready) (o := .encOut) nofun nofun _)).trans
      (afterHandshake_decHeadHeld (decInReady false s && p.dec_in_valid) hdec' hrst' _)
  rw [afterEdge, afterHandshake_decOut_returned _ hheld, afterHandshake_returned_of_input _ hdin,
    afterHandshake_encOut_returned _ (afterHandshake_encHeadHeld _ henc hrst s),
    afterHandshake_returned_of_input _ hin]

end Sys2Proof.Machine
end

section
/-! PROOFS. The statement of 30_encoding.md on rising edges. -/

namespace Sys2Proof.Proofs.Encoding

open Sys2Proof.Machine

/-- Settles O47, handshake by handshake: none stops in a safe state, and each pop finds the head it was offered. -/
theorem everyEdgeRuns : Obligations.EveryEdgeRuns := by
  intro p s h
  cases hrst : p.rst with
  | true =>
    have hedge : edge p s = .next (opNext .rst s) := by
      rw [edge, edgeOffers, if_pos hrst]
      exact execAll_cons_of_next [] (exec_of_safe .rst h)
    exact ⟨_, hedge, opNext_safe .rst h, nofun⟩
  | false => exact ⟨_, edge_of_safe hrst h, afterEdge_safe p h, fun _ => afterEdge_returned p s⟩

end Sys2Proof.Proofs.Encoding
end

section
/-! SUPPORT. The steps of a run of programs (spec 30_encoding.md R65, R66): what the moving agent offers, and how its
program goes on when the offer is taken or waits. -/

namespace Sys2Proof.Machine

/-! ## What the moving agent has on its port -/

/-- An offer put for an agent stands before everything the agent still has to do. -/
theorem getElem?_putOffer (o : Offer) (n : Nat) (agents : List (List Offer)) :
    (putOffer o n agents)[n]? = some (o :: agents.getD n []) := by
  induction n generalizing agents with
  | zero => cases agents <;> rfl
  | succ n ih =>
    cases agents with
    | nil => simpa [putOffer] using ih []
    | cons a as => simpa [putOffer] using ih as

theorem offerOf_of_getElem? {agents : List (List Offer)} {n : Nat} {o : Offer} (h : agents[n]? = some [o]) :
    offerOf agents n = some o := offerOf_eq_some_iff.2 ⟨[], h⟩

theorem ProgramRun.nextOffer_of_offer {r : ProgramRun} {n : Nat} {o : Offer} (h : offerOf r.state.agents n = some o) :
    r.nextOffer n = some o := by
  rw [ProgramRun.nextOffer, h]

theorem ProgramRun.nextOffer_of_program {r : ProgramRun} {n : Nat} {a : Action} {as : List Action}
    (h : offerOf r.state.agents n = none) (hp : r.programs[n]? = some (a :: as)) :
    r.nextOffer n = some (encode a.instr) := by
  rw [ProgramRun.nextOffer, h, List.getD_eq_getElem?_getD, hp]
  rfl

/-- The moving agent has this offer, and nothing else, on its port at the run's next step (30_encoding.md R65: each
action blocks until its handshake completes). -/
structure ProgramRun.Offers (r : ProgramRun) (o : Offer) : Prop where
  next : r.nextOffer r.state.actor = some o
  alone : r.offered.agents[r.state.actor]? = some [o]

/-- An offer that waits is the one the agent has at the next step. -/
theorem ProgramRun.Offers.of_waiting {r : ProgramRun} {o : Offer}
    (h : r.state.agents[r.state.actor]? = some [o]) : r.Offers o := by
  have ho := offerOf_of_getElem? h
  refine ⟨ProgramRun.nextOffer_of_offer ho, ?_⟩
  rw [ProgramRun.offered, ho]
  exact h

/-- An agent with nothing on its port offers its program's next operation (30_encoding.md R65, R66). -/
theorem ProgramRun.Offers.of_program {r : ProgramRun} {a : Action} {as : List Action}
    (h : offerOf r.state.agents r.state.actor = none) (hp : r.programs[r.state.actor]? = some (a :: as)) :
    r.Offers (encode a.instr) := by
  have hnext := ProgramRun.nextOffer_of_program h hp
  have hempty : r.state.agents.getD r.state.actor [] = [] := List.head?_eq_none_iff.1 h
  refine ⟨hnext, ?_⟩
  rw [ProgramRun.offered, h, hnext]
  exact (getElem?_putOffer _ _ _).trans (by rw [hempty])

/-- Placing the offer is not seen by the channels, the parameters and the invariants. -/
theorem ProgramRun.offered_live {r : ProgramRun} (h : r.state.Live) : r.offered.Live := by
  rw [ProgramRun.offered_eq]
  exact h

theorem ProgramRun.offered_sameEnc (r : ProgramRun) : SameEnc r.state r.offered := by
  rw [ProgramRun.offered_eq]
  exact ⟨rfl, rfl, rfl⟩

theorem ProgramRun.offered_sameDec (r : ProgramRun) : SameDec r.state r.offered := by
  rw [ProgramRun.offered_eq]
  exact ⟨rfl, rfl, rfl, rfl⟩

theorem ProgramRun.offered_turn (r : ProgramRun) : r.offered.turn = r.state.turn := by
  rw [ProgramRun.offered_eq]

theorem ProgramRun.offered_returned (r : ProgramRun) : r.offered.returned = r.state.returned := by
  rw [ProgramRun.offered_eq]

theorem ProgramRun.opReady_offered (i : Instr) (r : ProgramRun) : opReady i r.offered = opReady i r.state := by
  rw [ProgramRun.offered_eq]
  cases i <;> rfl

theorem ProgramRun.popLegal_offered (i : Instr) (r : ProgramRun) : popLegal i r.offered ↔ popLegal i r.state := by
  rw [ProgramRun.offered_eq]
  cases i <;> rfl

/-! ## An operation and the agents -/

/-- Every operation taken moves the agents and the turn alike (30_encoding.md R49). -/
theorem opEffect_taken (i : Instr) (s : State) : Taken s (opEffect i s).retire := by
  cases i with
  | encData d =>
    obtain ⟨-, -, -, htaken⟩ := encDataEffect_frame d s
    exact htaken
  | decData c =>
    obtain ⟨-, -, -, htaken⟩ := decDataEffect_frame c s
    exact htaken
  | encEnd _ | decSpace | decEnd _ | lutFwd _ | lutRev _ | encPop | decPop | rst => exact ⟨rfl, rfl⟩

/-- Where the one offer on the moving agent's port is taken, nothing is left there. -/
theorem offerOf_taken {s : State} {o : Offer} (h : s.agents[s.actor]? = some [o]) (i : Instr) :
    offerOf (opEffect i s).retire.agents s.actor = none := by
  obtain ⟨hagents, -⟩ := opEffect_taken i s
  rw [hagents, offerOf_eq_none_iff, List.getElem?_modify_eq, h]
  exact .inr rfl

/-! ## A step of a run -/

theorem ProgramRun.Offers.of_action {r : ProgramRun} {a : Action} {as : List Action}
    (h : offerOf r.state.agents r.state.actor = none ∨ r.state.agents[r.state.actor]? = some [encode a.instr])
    (hp : r.programs[r.state.actor]? = some (a :: as)) : r.Offers (encode a.instr) := by
  rcases h with h | h
  · exact .of_program h hp
  · exact .of_waiting h

/-- A run's step makes the operation of the action that the moving agent offers. -/
theorem ProgramRun.Offers.runStep_eq {r : ProgramRun} {i : Instr} (ho : r.Offers (encode i)) (hwf : i.WellFormed)
    (hi : (onEnc i || onDec i) = true) (hl : r.state.Live) (hlegal : popLegal i r.state) :
    runStep r = .next (r.advance (opNext i r.offered)) := by
  have hoffer : offerOf r.offered.agents r.offered.actor = some (encode i) := by
    rw [r.offered_actor]
    exact offerOf_of_getElem? ho.alone
  have hx : exec i r.offered = .next (opNext i r.offered) :=
    (exec_eq_next_iff hi).2 ⟨r.offered_live hl, (r.popLegal_offered i).2 hlegal, rfl⟩
  rw [runStep, step_of_offer hoffer, decode_encode hwf, hx]

/-- The operation is taken: the moving agent's program goes on. -/
theorem ProgramRun.Offers.runStep_taken {r : ProgramRun} {i : Instr} (ho : r.Offers (encode i)) (hwf : i.WellFormed)
    (hi : (onEnc i || onDec i) = true) (hl : r.state.Live) (hlegal : popLegal i r.state)
    (hready : opReady i r.state = true) :
    runStep r = .next
      { state := (opEffect i r.offered).retire
        programs := r.programs.modify r.state.actor (programLeft (opEffect i r.offered).returned.getLast?)
        taken := r.taken ++ [encode i] } := by
  have hempty : offerOf (opEffect i r.offered).retire.agents r.state.actor = none := by
    rw [← r.offered_actor]
    exact offerOf_taken (r.offered_actor ▸ ho.alone) i
  rw [ho.runStep_eq hwf hi hl hlegal, opNext_of_ready ((r.opReady_offered i).trans hready), ProgramRun.advance, ho.next,
    hempty]
  rfl

/-- The operation waits: nothing of the run but the port and the turn is changed. -/
theorem ProgramRun.Offers.runStep_waits {r : ProgramRun} {i : Instr} (ho : r.Offers (encode i)) (hwf : i.WellFormed)
    (hi : (onEnc i || onDec i) = true) (hl : r.state.Live) (hlegal : popLegal i r.state)
    (hready : opReady i r.state = false) : runStep r = .next { r with state := r.offered.pass } := by
  have hwait : ¬ opReady i r.offered = true := by rw [r.opReady_offered, hready]; exact Bool.false_ne_true
  rw [ho.runStep_eq hwf hi hl hlegal, opNext_of_not_ready hwait, ProgramRun.advance, ho.next, State.pass_agents,
    offerOf_of_getElem? ho.alone]

/-! ## ENC.POPFRAME and DEC.POPFRAME -/

/-- The pop is repeated until the popped word has K = 1 (30_encoding.md R66). -/
theorem programLeft_encPopFrame (w : OutWord) (as : List Action) :
    programLeft (some (.encWord w)) (.encPopFrame :: as) = if outKind w = true then as else .encPopFrame :: as := by
  rw [programLeft, Action.left]
  split <;> rfl

theorem programLeft_decPopFrame (w : OutWord) (as : List Action) :
    programLeft (some (.decWord w)) (.decPopFrame :: as) = if outKind w = true then as else .decPopFrame :: as := by
  rw [programLeft, Action.left]
  split <;> rfl

theorem opEffect_encPop_returned {w : OutWord} {q : List OutWord} {s : State} (hq : s.enc_q = w :: q) :
    (opEffect .encPop s).returned = s.returned ++ [.encWord w] := by
  simp [opEffect, encOutWord, hq]

theorem opEffect_decPop_returned {w : OutWord} {q : List OutWord} {s : State} (hq : s.dec_q = w :: q) :
    (opEffect .decPop s).returned = s.returned ++ [.decWord w] := by
  simp [opEffect, decOutWord, hq]

/-- ENC.POPFRAME at a word: the pop gives it to the host, and the program goes on if it is an END word. -/
theorem runStep_encPopFrame_word {r : ProgramRun} {w : OutWord} {q : List OutWord} {as : List Action}
    (hl : r.state.Live) (ho : r.Offers .encOut) (hp : r.programs[r.state.actor]? = some (.encPopFrame :: as))
    (hq : r.state.enc_q = w :: q) (hw : encWordLegal w = true) :
    ∃ r', runStep r = .next r' ∧ r'.state.enc_q = q ∧ r'.state.returned = r.state.returned ++ [.encWord w] ∧
      r'.programs[r.state.actor]? = some (if outKind w = true then as else .encPopFrame :: as) := by
  obtain ⟨-, -, hsame⟩ := r.offered_sameEnc
  have hret := opEffect_encPop_returned (hsame.trans hq)
  refine ⟨_, ho.runStep_taken (i := .encPop) rfl rfl hl ?_ ?_, ?_, ?_, ?_⟩
  · simpa [popLegal, encOutWord, hq] using fun _ => hw
  · simp [opReady, encOutValid, hq]
  · simp [opEffect, hsame, hq]
  · rw [State.retire_returned, hret, r.offered_returned]
  · rw [hret, List.getLast?_concat, List.getElem?_modify_eq, hp, Option.map_eq_map, Option.map_some,
      programLeft_encPopFrame]

/-- ENC.POPFRAME at an empty queue: the pop waits. -/
theorem runStep_encPopFrame_empty {r : ProgramRun} (hl : r.state.Live) (ho : r.Offers .encOut)
    (hq : r.state.enc_q = []) :
    ∃ r', runStep r = .next r' ∧ r'.state.enc_q = [] ∧ r'.state.returned = r.state.returned ∧
      r'.programs = r.programs := by
  obtain ⟨-, -, hsame⟩ := r.offered_sameEnc
  refine ⟨_, ho.runStep_waits (i := .encPop) rfl rfl hl ?_ ?_, hsame.trans hq, r.offered_returned, rfl⟩
  · simp [popLegal, encOutValid, hq]
  · simp [opReady, encOutValid, hq]

/-- DEC.POPFRAME at a word: the pop gives it to the host, and the program goes on if it is an END word. -/
theorem runStep_decPopFrame_word {r : ProgramRun} {w : OutWord} {q : List OutWord} {as : List Action}
    (hl : r.state.Live) (ho : r.Offers .decOut) (hp : r.programs[r.state.actor]? = some (.decPopFrame :: as))
    (hq : r.state.dec_q = w :: q) (hw : decWordLegal r.state.cfg.ovfMode w = true) :
    ∃ r', runStep r = .next r' ∧ r'.state.dec_q = q ∧ r'.state.returned = r.state.returned ++ [.decWord w] ∧
      r'.programs[r.state.actor]? = some (if outKind w = true then as else .decPopFrame :: as) := by
  obtain ⟨-, -, -, hsame⟩ := r.offered_sameDec
  have hret := opEffect_decPop_returned (hsame.trans hq)
  refine ⟨_, ho.runStep_taken (i := .decPop) rfl rfl hl ?_ ?_, ?_, ?_, ?_⟩
  · simpa [popLegal, decOutWord, hq] using fun _ => hw
  · simp [opReady, decOutValid, hq]
  · simp [opEffect, hsame, hq]
  · rw [State.retire_returned, hret, r.offered_returned]
  · rw [hret, List.getLast?_concat, List.getElem?_modify_eq, hp, Option.map_eq_map, Option.map_some,
      programLeft_decPopFrame]

/-- DEC.POPFRAME at an empty queue: the pop waits. -/
theorem runStep_decPopFrame_empty {r : ProgramRun} (hl : r.state.Live) (ho : r.Offers .decOut)
    (hq : r.state.dec_q = []) :
    ∃ r', runStep r = .next r' ∧ r'.state.dec_q = [] ∧ r'.state.returned = r.state.returned ∧
      r'.programs = r.programs := by
  obtain ⟨-, -, -, hsame⟩ := r.offered_sameDec
  refine ⟨_, ho.runStep_waits (i := .decPop) rfl rfl hl ?_ ?_, hsame.trans hq, r.offered_returned, rfl⟩
  · simp [popLegal, decOutValid, hq]
  · simp [opReady, decOutValid, hq]

end Sys2Proof.Machine
end

section
/-! PROOFS. The statement of 30_encoding.md on ENC.POPFRAME and DEC.POPFRAME. -/

namespace Sys2Proof.Proofs.Encoding

open Sys2Proof.Machine

/-- Settles O57: the agent has the pop on its port, which takes the head of the queue or waits. -/
theorem popFramesPopThroughTheEndWord : Obligations.PopFramesPopThroughTheEndWord := by
  intro w q as r hl
  constructor
  · intro h hp
    have ho : r.Offers .encOut := .of_action h hp
    exact ⟨runStep_encPopFrame_word hl ho hp, runStep_encPopFrame_empty hl ho⟩
  · intro h hp
    have ho : r.Offers .decOut := .of_action h hp
    exact ⟨runStep_decPopFrame_word hl ho hp, runStep_decPopFrame_empty hl ho⟩

end Sys2Proof.Proofs.Encoding
end

section
/-! SUPPORT. ENC.FRAME and DEC.FRAME, beat by beat, as one agent's whole program (spec 30_encoding.md R66). -/

namespace Sys2Proof.Machine

/-! ## A run of one agent -/

/-- One agent alone moves, has nothing on its port and this program, and the machine is live. -/
structure SoloRun (r : ProgramRun) (as : List Action) : Prop where
  programs : r.programs = [as]
  turn : r.state.turn = []
  idle : offerOf r.state.agents 0 = none
  live : r.state.Live

theorem ProgramRun.start_inv (cfg : Config) (turn : List Nat) (programs : List (List Action)) :
    (ProgramRun.start cfg turn programs).state.Inv :=
  State.resetRegs_inv (ProgramRun.start cfg turn programs).state

theorem SoloRun.start (cfg : Config) (as : List Action) : SoloRun (.start cfg [] [as]) as :=
  ⟨rfl, rfl, rfl, rfl, ProgramRun.start_inv cfg [] [as]⟩

theorem popLegal_of_input {i : Instr} (hi : (isEncInput i || isDecInput i) = true) (s : State) : popLegal i s := by
  cases i with
  | encData _ | encEnd _ | decSpace | decData _ | decEnd _ => trivial
  | lutFwd _ | lutRev _ | encPop | decPop | rst => cases hi

theorem on_channel_of_input {i : Instr} (hi : (isEncInput i || isDecInput i) = true) :
    (onEnc i || onDec i) = true := by
  cases i with
  | encData _ | encEnd _ | decSpace | decData _ | decEnd _ => rfl
  | lutFwd _ | lutRev _ | encPop | decPop | rst => cases hi

/-- A beat there is room for is taken once, and the agent's program goes on. -/
theorem SoloRun.runStep_beat {r : ProgramRun} {a : Action} {as left : List Action} (h : SoloRun r (a :: as))
    (hwf : a.instr.WellFormed) (hi : (isEncInput a.instr || isDecInput a.instr) = true)
    (hready : opReady a.instr r.state = true) (hleft : ∀ got, a.left got = left) :
    ∃ r', runStep r = .next r' ∧ SoloRun r' (left ++ as) ∧ r'.state = (opEffect a.instr r.offered).retire ∧
      r'.taken = r.taken ++ [encode a.instr] := by
  have hactor : r.state.actor = 0 := r.state.actor_nil h.turn
  have hp : r.programs[r.state.actor]? = some (a :: as) := by rw [hactor, h.programs]; rfl
  have ho : r.Offers (encode a.instr) := .of_program (by rw [hactor]; exact h.idle) hp
  have hon := on_channel_of_input hi
  obtain ⟨-, hturn⟩ := opEffect_taken a.instr r.offered
  have hready' : opReady a.instr r.offered = true := (r.opReady_offered _).trans hready
  refine ⟨_, ho.runStep_taken hwf hon h.live (popLegal_of_input hi _) hready, ⟨?_, ?_, ?_, ?_⟩, rfl, rfl⟩
  · rw [hactor, h.programs, ← hleft]
    rfl
  · rw [hturn, r.offered_turn, h.turn]
    rfl
  · have hport : r.offered.actor = 0 := r.offered_actor.trans hactor
    rw [← hport]
    exact offerOf_taken (r.offered_actor ▸ ho.alone) _
  · rw [← opNext_of_ready hready']
    exact opNext_live _ (r.offered_live h.live)

theorem runSteps_succ_of_next {r r' : ProgramRun} (k : Nat) (h : runStep r = .next r') :
    runSteps (k + 1) r = runSteps k r' := by
  rw [runSteps, h]

/-! ## ENC.FRAME -/

theorem encodeBytes_chunk_append {chunk : List Byte} (h : chunk.length = 4) (bytes : List Byte) :
    encodeBytes (chunk ++ bytes) = encodeSyms (chunkOf chunk) ++ encodeBytes bytes := by
  match chunk, h with
  | [_, _, _, _], _ => rfl

/-- There is room for the words of `n` more bytes and the END beat after the bytes held (41_encoder.md R80, R83). -/
def EncRoom (held : List Byte) (n : Nat) (s : State) : Prop :=
  s.enc_q.length + 5 * ((held.length + n) / 4) + 5 ≤ s.cfg.encOutqDepth

theorem EncRoom.ready {held : List Byte} {n : Nat} {s : State} (h : EncRoom held n s) : encInReady false s = true := by
  refine (encInReady_iff s).2 ?_
  unfold EncRoom at h
  omega

/-- A byte taken leaves the frame's words and the room for them as they were before it (41_encoder.md R75, R79). -/
theorem encDataEffect_of_holds {held : List Byte} {s : State} (b : Byte) (h : EncHolds held s) :
    ∃ held', EncHolds held' (encDataEffect b s) ∧
      (∀ bytes, (encDataEffect b s).enc_q ++ (encodeBytes (held' ++ bytes)).map dataW =
        s.enc_q ++ (encodeBytes (held ++ b :: bytes)).map dataW) ∧
      ∀ n, EncRoom held (n + 1) s → EncRoom held' n (encDataEffect b s) := by
  have hcfg : (encDataEffect b s).cfg = s.cfg := opEffect_cfg (.encData b) s
  have hlen := h.length_lt
  by_cases hlt : held.length < 3
  · obtain ⟨hopen, hq⟩ := encDataEffect_open b h hlt
    refine ⟨held ++ [b], hopen, fun bytes => ?_, fun n hroom => ?_⟩
    · rw [hq, List.append_assoc, List.singleton_append]
    · simp only [EncRoom, hq, hcfg, List.length_append, List.length_singleton] at hroom ⊢
      omega
  · obtain ⟨hidle, hq⟩ := encDataEffect_full b h (by omega)
    have hfull : (held ++ [b]).length = 4 := by simp; omega
    refine ⟨[], hidle.holds, fun bytes => ?_, fun n hroom => ?_⟩
    · rw [hq, List.append_cons held b bytes, encodeBytes_chunk_append hfull, List.map_append, List.append_assoc,
        List.nil_append]
    · simp only [EncRoom, hq, hcfg, List.length_append, List.length_map, encodeSyms_length, List.length_nil] at hroom ⊢
      omega

theorem EncHolds.offered {held : List Byte} {r : ProgramRun} (h : EncHolds held r.state) :
    EncHolds held r.offered := by
  obtain ⟨hv, hc, -⟩ := r.offered_sameEnc
  exact h.of_regs hv hc

theorem EncRoom.offered {held : List Byte} {n : Nat} {r : ProgramRun} (h : EncRoom held n r.state) :
    EncRoom held n r.offered := by
  rw [ProgramRun.offered_eq]
  exact h

/-- ENC.FRAME with room for its words: one beat per byte and the END beat, each taken once, give the words of the frame
(30_encoding.md R66, 41_encoder.md R79). -/
theorem runSteps_encFrame (bytes : List Byte) {r : ProgramRun} {held : List Byte} (h : SoloRun r [.encFrame bytes])
    (hholds : EncHolds held r.state) (hroom : EncRoom held bytes.length r.state) :
    ∃ r', runSteps (bytes.length + 1) r = .next r' ∧ r'.programs = [[]] ∧
      r'.taken = r.taken ++ (encFrameInstrs bytes).map encode ∧
      r'.state.enc_q = r.state.enc_q ++ (encodeBytes (held ++ bytes)).map dataW ++ [endW .ok] := by
  induction bytes generalizing r held with
  | nil =>
    obtain ⟨-, -, hq⟩ := r.offered_sameEnc
    obtain ⟨r', hstep, hsolo, hstate, htaken⟩ := h.runStep_beat rfl rfl hroom.ready fun _ => rfl
    refine ⟨r', runSteps_succ_of_next 0 hstep, hsolo.programs, htaken, ?_⟩
    rw [hstate, List.append_nil, ← encTail_of_holds hholds.offered, ← hq, List.append_assoc]
    rfl
  | cons b bytes ih =>
    obtain ⟨-, -, hq⟩ := r.offered_sameEnc
    obtain ⟨r1, hstep, hsolo, hstate, htaken⟩ := h.runStep_beat rfl rfl hroom.ready fun _ => rfl
    obtain ⟨held', hholds', hwords, hroom'⟩ := encDataEffect_of_holds b hholds.offered
    have hholds1 : EncHolds held' r1.state := by rw [hstate]; exact hholds'
    have hroom1 : EncRoom held' bytes.length r1.state := by rw [hstate]; exact hroom' _ hroom.offered
    have hq1 : r1.state.enc_q = (encDataEffect b r.offered).enc_q := by rw [hstate]; rfl
    obtain ⟨r', hsteps, hprog, htaken', hwords'⟩ := ih hsolo hholds1 hroom1
    refine ⟨r', (runSteps_succ_of_next _ hstep).trans hsteps, hprog, ?_, ?_⟩
    · rw [htaken', htaken, List.append_assoc]
      rfl
    · rw [hwords', hq1, hwords, hq]

/-! ## DEC.FRAME -/

/-- The symbols of a text: its bytes but the spaces (42_decoder.md R86). -/
def symbolCount (text : List Byte) : Nat := (text.filter (fun c => c != 0x20#8)).length

/-- There is room for the words of `n` more symbols and the END beat after those of the open group (42_decoder.md R94,
R95, R97). -/
def DecRoom (n : Nat) (s : State) : Prop :=
  s.dec_q.length + 4 * ((s.dec_cnt.val + n) / 5) + 4 ≤ s.cfg.decOutqDepth

theorem DecRoom.ready {n : Nat} {s : State} (h : DecRoom n s) : decInReady false s = true := by
  refine (decInReady_iff s).2 ?_
  unfold DecRoom at h
  omega

theorem DecRoom.offered {n : Nat} {r : ProgramRun} (h : DecRoom n r.state) : DecRoom n r.offered := by
  rw [ProgramRun.offered_eq]
  exact h

/-- A symbol taken leaves the room for the words of those after it (42_decoder.md R94, R97). -/
theorem DecRoom.after_symbol {n : Nat} {s : State} (c : Byte) (h : DecRoom (n + 1) s) :
    DecRoom n (decDataEffect c s) := by
  have hcfg : (decDataEffect c s).cfg = s.cfg := opEffect_cfg (.decData c) s
  unfold DecRoom at h ⊢
  rw [hcfg]
  rcases decDataEffect_queue_cases c s with ⟨hq, hcnt⟩ | ⟨h4, hcnt, g, hq⟩
  · rw [hq]
    omega
  · rw [hq, hcnt, List.length_append, List.length_map, bytesOf_length, Fin.val_zero]
    omega

/-- A beat of DEC.FRAME, a space or a symbol, leaves the room for the words of the text after it. -/
theorem DecRoom.after_beat {text : List Byte} {s : State} (c : Byte) (h : DecRoom (symbolCount (c :: text)) s) :
    DecRoom (symbolCount text) (opEffect (decFrameBeat c) s) := by
  by_cases hc : c = 0x20#8
  · subst hc
    exact h
  · rw [decFrameBeat, if_neg hc]
    refine DecRoom.after_symbol c ?_
    simpa [symbolCount, hc] using h

theorem decFrameBeat_wf (c : Byte) : (decFrameBeat c).WellFormed := by
  unfold decFrameBeat
  split
  · rfl
  · next hc => exact bne_iff_ne.2 hc

theorem isDecInput_decFrameBeat (c : Byte) : isDecInput (decFrameBeat c) = true := by
  unfold decFrameBeat
  split <;> rfl

/-- A byte of a text is sent as the word of its value, 0x020 for a space (30_encoding.md R54, R66). -/
theorem encode_decFrameBeat (c : Byte) : encode (decFrameBeat c) = .decIn (inWord false c) := by
  unfold decFrameBeat
  split
  · next hc => rw [hc]; rfl
  · rfl

/-- DEC.FRAME with room for its words: one beat per byte and the END beat, each taken once (30_encoding.md R66). -/
theorem runSteps_decFrame (text : List Byte) {r : ProgramRun} (h : SoloRun r [.decFrame text])
    (hroom : DecRoom (symbolCount text) r.state) :
    ∃ r', runSteps (text.length + 1) r = .next r' ∧ r'.programs = [[]] ∧
      r'.taken = r.taken ++ (decFrameInstrs text).map encode := by
  induction text generalizing r with
  | nil =>
    obtain ⟨r', hstep, hsolo, -, htaken⟩ := h.runStep_beat rfl rfl hroom.ready fun _ => rfl
    exact ⟨r', runSteps_succ_of_next 0 hstep, hsolo.programs, htaken⟩
  | cons c text ih =>
    have hinput := isDecInput_decFrameBeat c
    have hready : opReady (decFrameBeat c) r.state = true := (opReady_of_isDecInput hinput _).trans hroom.ready
    obtain ⟨r1, hstep, hsolo, hstate, htaken⟩ := h.runStep_beat (left := [.decFrame text]) (decFrameBeat_wf c)
      (by rw [Action.instr, hinput, Bool.or_true]) hready fun _ => rfl
    have hroom1 : DecRoom (symbolCount text) r1.state := by rw [hstate]; exact hroom.offered.after_beat c
    obtain ⟨r', hsteps, hprog, htaken'⟩ := ih hsolo hroom1
    refine ⟨r', (runSteps_succ_of_next _ hstep).trans hsteps, hprog, ?_⟩
    rw [htaken', htaken, List.append_assoc]
    rfl

end Sys2Proof.Machine
end

section
/-! PROOFS. The statement of 30_encoding.md on ENC.FRAME and DEC.FRAME. -/

namespace Sys2Proof.Proofs.Encoding

open Sys2Proof.Machine

/-- Settles O58, by induction on the bytes: each beat finds room and leaves it for the words of those after it. -/
theorem frameActionsSendTheirBeats : Obligations.FrameActionsSendTheirBeats := by
  intro bytes cfg
  constructor
  · intro hdepth
    have hroom : EncRoom [] bytes.length (ProgramRun.start cfg [] [[.encFrame bytes]]).state := by
      simpa [EncRoom, ProgramRun.start, State.reset] using hdepth
    obtain ⟨r, hsteps, hprog, htaken, hwords⟩ :=
      runSteps_encFrame bytes (.start cfg _) (State.EncIdle.holds ⟨rfl, rfl⟩) hroom
    refine ⟨r, hsteps, ?_, hprog, hwords⟩
    rw [htaken, encFrameInstrs, List.map_append, List.map_map]
    rfl
  · intro hdepth
    have hroom : DecRoom (symbolCount bytes) (ProgramRun.start cfg [] [[.decFrame bytes]]).state := by
      simpa [DecRoom, symbolCount, ProgramRun.start, State.reset] using hdepth
    obtain ⟨r, hsteps, hprog, htaken⟩ := runSteps_decFrame bytes (.start cfg _) hroom
    refine ⟨r, hsteps, ?_, hprog⟩
    rw [htaken, decFrameInstrs, List.map_append, List.map_map, funext (f := encode ∘ decFrameBeat) encode_decFrameBeat]
    rfl

end Sys2Proof.Proofs.Encoding
end

section
/-! SUPPORT. A printed operation read by the assembler (spec 30_encoding.md R65; log entry 12). -/

namespace Sys2Proof.Machine

/-! ## The mnemonic of a line -/

/-- A character of a mnemonic: it neither separates the parts of a line nor starts a comment. -/
def inMnemonic (c : Char) : Bool := !(isBlank c || c == ';')

/-- A mnemonic: at least one character, all of them its own. -/
abbrev IsMnemonic (name : List Char) : Prop := name ≠ [] ∧ name.all inMnemonic = true

/-- The rest of a line does not run on with the mnemonic. -/
def EndsMnemonic (rest : List Char) : Prop := ∀ c ∈ rest.head?, inMnemonic c = false

theorem takeWhile_mnemonic {name rest : List Char} (h : IsMnemonic name) (hr : EndsMnemonic rest) :
    (name ++ rest).takeWhile inMnemonic = name ∧ (name ++ rest).dropWhile inMnemonic = rest := by
  obtain ⟨-, hall⟩ := h
  rw [List.takeWhile_append_of_pos (List.all_eq_true.1 hall), List.dropWhile_append_of_pos (List.all_eq_true.1 hall)]
  cases rest with
  | nil => simp
  | cons c cs =>
    have hc : inMnemonic c = false := hr c rfl
    simp [hc]

/-- A line that starts with a mnemonic is read by its name and what follows it. -/
theorem assembleLine_mnemonic {name rest : List Char} (h : IsMnemonic name) (hr : EndsMnemonic rest) :
    assembleLine (name ++ rest) = assembleNamed name rest := by
  obtain ⟨htake, hdrop⟩ := takeWhile_mnemonic h hr
  obtain ⟨hne, hall⟩ := h
  obtain ⟨c, cs, rfl⟩ := List.exists_cons_of_ne_nil hne
  have hc : inMnemonic c = true := List.all_eq_true.1 hall c List.mem_cons_self
  rw [inMnemonic, Bool.not_eq_true', Bool.or_eq_false_iff] at hc
  obtain ⟨hblank, hcomment⟩ := hc
  have hskip : (c :: cs ++ rest).dropWhile isBlank = c :: cs ++ rest := by simp [hblank]
  have hends : lineEnds (c :: cs ++ rest) = false := by rw [lineEnds, hskip]; exact hcomment
  rw [assembleLine, hskip, if_neg (by rw [hends]; exact Bool.false_ne_true)]
  exact congrArg₂ assembleNamed htake hdrop

/-! ## Operands -/

/-- A printed digit is read back (log entry 12). -/
theorem hexValue_hexDigit {n : Nat} (h : n < 16) : hexValue (hexDigit n) = some n := by
  have hall : ∀ n : Fin 16, hexValue (hexDigit n) = some n.val := by decide
  exact hall ⟨n, h⟩

/-- `0xNN` is read as the byte it prints. -/
theorem readNumber_printed {n : Nat} (h : n < 256) :
    readNumber ['0', 'x', hexDigit (n / 16), hexDigit (n % 16)] = some (n, []) := by
  have hpair : hexPair (hexDigit (n / 16)) (hexDigit (n % 16)) = some n := by
    rw [hexPair, hexValue_hexDigit (by omega), hexValue_hexDigit (by omega)]
    simp only [Option.some.injEq]
    omega
  have hbyte : readNumber ['0', 'x', hexDigit (n / 16), hexDigit (n % 16)] =
      readHexByte [hexDigit (n / 16), hexDigit (n % 16)] := rfl
  rw [hbyte, readHexByte, hpair]
  rfl

theorem withNumber_printed {bound n : Nat} (a : Nat → Action) (hn : n < 256) (hb : n < bound) :
    withNumber bound a [' ', '0', 'x', hexDigit (n / 16), hexDigit (n % 16)] = some [a n] := by
  have hskip : [' ', '0', 'x', hexDigit (n / 16), hexDigit (n % 16)].dropWhile isBlank =
    ['0', 'x', hexDigit (n / 16), hexDigit (n % 16)] := rfl
  rw [withNumber, hskip, readNumber_printed hn]
  exact if_pos hb

/-! ## Lines -/

/-- A line of a mnemonic alone. -/
theorem assembleLine_bare {name : List Char} {a : Action} (h : IsMnemonic name)
    (hname : assembleNamed name = bare a) : assembleLine name = some [a] := by
  have hline := assembleLine_mnemonic (rest := []) h nofun
  rw [List.append_nil] at hline
  rw [hline, hname]
  rfl

/-- A line of a mnemonic and a printed operand. -/
theorem assembleLine_printByte {name : List Char} {bound n : Nat} {a : Nat → Action} (h : IsMnemonic name)
    (hname : assembleNamed name = withNumber bound a) (hn : n < 256) (hb : n < bound) :
    assembleLine (printByte name n) = some [a n] := by
  have hrest : EndsMnemonic [' ', '0', 'x', hexDigit (n / 16), hexDigit (n % 16)] := by
    rintro c ⟨⟩
    rfl
  rw [printByte, assembleLine_mnemonic h hrest, hname, withNumber_printed a hn hb]

/-- An operation whose mnemonic takes a number of `k` bits is read back with its operand. -/
theorem assembleLine_operand {name : List Char} {k : Nat} {op : BitVec k → Instr} (h : IsMnemonic name) (hk : k ≤ 8)
    (hname : assembleNamed name = withNumber (2 ^ k) fun n => .op (op (BitVec.ofNat k n))) (v : BitVec k) :
    assembleLine (printByte name v.toNat) = some [.op (op v)] := by
  have hn : v.toNat < 256 := v.isLt.trans_le (Nat.pow_le_pow_right (by decide) hk)
  rw [assembleLine_printByte h hname hn v.isLt, BitVec.ofNat_toNat, BitVec.setWidth_eq]

/-- Every operation the assembler has a form for is printed as a line that stands for it alone (30_encoding.md R65). -/
theorem assembleLine_printOp {i : Instr} (hwf : i.WellFormed) (hr : reservedZero i = true) :
    ∃ line, printOp i = some line ∧ assembleLine line = some [.op i] := by
  cases i with
  | encData d => exact ⟨_, rfl, assembleLine_operand (op := .encData) (by decide) (by decide) rfl d⟩
  | encEnd r =>
    obtain rfl : r = 0 := beq_iff_eq.1 hr
    exact ⟨_, rfl, assembleLine_bare (name := nameEncEnd) (by decide) rfl⟩
  | decSpace => exact ⟨_, rfl, assembleLine_bare (name := nameDecSpace) (by decide) rfl⟩
  | decData c =>
    have hc : c ≠ 0x20#8 := bne_iff_ne.1 hwf
    have hline := assembleLine_operand (name := nameDecData) (op := decFrameBeat) (by decide) (by decide) rfl c
    rw [decFrameBeat, if_neg hc] at hline
    exact ⟨_, if_neg hc, hline⟩
  | decEnd r =>
    obtain rfl : r = 0 := beq_iff_eq.1 hr
    exact ⟨_, rfl, assembleLine_bare (name := nameDecEnd) (by decide) rfl⟩
  | lutFwd v => exact ⟨_, rfl, assembleLine_operand (op := .lutFwd) (by decide) (by decide) rfl v⟩
  | lutRev c => exact ⟨_, rfl, assembleLine_operand (op := .lutRev) (by decide) (by decide) rfl c⟩
  | encPop => exact ⟨_, rfl, assembleLine_bare (name := nameEncPop) (by decide) rfl⟩
  | decPop => exact ⟨_, rfl, assembleLine_bare (name := nameDecPop) (by decide) rfl⟩
  | rst => exact ⟨_, rfl, assembleLine_bare (name := nameRst) (by decide) rfl⟩

/-- An END word with a nonzero reserved field has no form (30_encoding.md R53, R65). -/
theorem printOp_reserved {i : Instr} (hr : ¬ reservedZero i = true) : printOp i = none := by
  cases i with
  | encEnd r => exact if_neg fun h => hr (beq_iff_eq.2 h)
  | decEnd r => exact if_neg fun h => hr (beq_iff_eq.2 h)
  | encData _ | decSpace | decData _ | lutFwd _ | lutRev _ | encPop | decPop | rst => exact absurd rfl hr

end Sys2Proof.Machine
end

section
/-! PROOFS. The statement of 30_encoding.md on the assembler's lines. -/

namespace Sys2Proof.Proofs.Encoding

open Sys2Proof.Machine

/-- Settles O6: the assembler reads the mnemonic up to its end and the two hexadecimal digits that were printed. -/
theorem printedOperationAssemblesBack : Obligations.PrintedOperationAssemblesBack := by
  intro i hwf
  split
  · next hr => exact assembleLine_printOp hwf hr
  · next hr => exact printOp_reserved hr

end Sys2Proof.Proofs.Encoding
end

section
/-! SUPPORT. The two tables of spec 40_alphabet_lut.md R67 and R68, run by run, and the LUT reads (R70, R71). -/

namespace Sys2Proof.Machine

/-! ## The forward table -/

theorem fwd_decimal_toNat {v : Digit} (h : v.toNat ≤ 9) : (fwd v).toNat = 0x30 + v.toNat := by
  have hrun : ∀ n ≤ 9, (fwdDecimal.getD n 0).toNat = 0x30 + n := by decide
  rw [← hrun _ h, fwd, fwdTable, List.append_assoc, List.append_assoc, List.getD_append _ _ _ _ (Nat.lt_succ_of_le h)]

theorem fwd_upper_toNat {v : Digit} (h : 10 ≤ v.toNat) (h' : v.toNat ≤ 35) :
    (fwd v).toNat = 0x41 + (v.toNat - 10) := by
  have hrun : ∀ n ≤ 25, (fwdUpper.getD n 0).toNat = 0x41 + n := by decide
  rw [← hrun _ (by omega), fwd, fwdTable, List.append_assoc, List.getD_append _ _ _ _ (Nat.lt_succ_of_le h'),
    List.getD_append_right _ _ _ _ h]
  rfl

theorem fwd_lower_toNat {v : Digit} (h : 36 ≤ v.toNat) (h' : v.toNat ≤ 61) :
    (fwd v).toNat = 0x61 + (v.toNat - 36) := by
  have hrun : ∀ n ≤ 25, (fwdLower.getD n 0).toNat = 0x61 + n := by decide
  rw [← hrun _ (by omega), fwd, fwdTable, List.getD_append _ _ _ _ (Nat.lt_succ_of_le h'),
    List.getD_append_right _ _ _ _ h]
  rfl

theorem fwd_punct {v : Digit} (h : 62 ≤ v.toNat) : fwd v = punct.getD (v.toNat - 62) 0 := by
  rw [fwd, fwdTable, List.getD_append_right _ _ _ _ h]
  rfl

/-! ## The reverse table -/

theorem punct_nodup : punct.Nodup := by decide

/-- No punctuation character of the alphabet is a digit or a letter. -/
theorem punct_outside_runs : ∀ c ∈ punct,
    ¬ (0x30#8 ≤ c ∧ c ≤ 0x39#8) ∧ ¬ (0x41#8 ≤ c ∧ c ≤ 0x5A#8) ∧ ¬ (0x61#8 ≤ c ∧ c ≤ 0x7A#8) := by decide

theorem rev_decimal {c : Byte} (h : 0x30 ≤ c.toNat ∧ c.toNat ≤ 0x39) :
    rev c = ⟨true, BitVec.ofNat 7 (c.toNat - 0x30)⟩ := if_pos h

theorem rev_upper {c : Byte} (h : 0x41 ≤ c.toNat ∧ c.toNat ≤ 0x5A) :
    rev c = ⟨true, BitVec.ofNat 7 (c.toNat - 0x41 + 10)⟩ := by
  rw [rev, if_neg (by bv_omega)]
  exact if_pos h

theorem rev_lower {c : Byte} (h : 0x61 ≤ c.toNat ∧ c.toNat ≤ 0x7A) :
    rev c = ⟨true, BitVec.ofNat 7 (c.toNat - 0x61 + 36)⟩ := by
  rw [rev, if_neg (by bv_omega), if_neg (by bv_omega)]
  exact if_pos h

theorem rev_punct {c : Byte} (h : c ∈ punct) : rev c = ⟨true, BitVec.ofNat 7 (62 + punct.idxOf c)⟩ := by
  obtain ⟨hdecimal, hupper, hlower⟩ := punct_outside_runs c h
  rw [rev, if_neg hdecimal, if_neg hupper, if_neg hlower, if_pos h]

/-- A byte of one of the four runs of 40_alphabet_lut.md R68: digits, uppercase, lowercase, punctuation. -/
abbrev InAlphabet (c : Byte) : Prop :=
  (0x30 ≤ c.toNat ∧ c.toNat ≤ 0x39) ∨ (0x41 ≤ c.toNat ∧ c.toNat ≤ 0x5A) ∨ (0x61 ≤ c.toNat ∧ c.toNat ≤ 0x7A) ∨
    c ∈ punct

theorem rev_of_not_inAlphabet {c : Byte} (h : ¬ InAlphabet c) : rev c = ⟨false, 0⟩ := by
  simp only [InAlphabet, not_or] at h
  obtain ⟨hdecimal, hupper, hlower, hpunct⟩ := h
  rw [rev, if_neg (by bv_omega), if_neg (by bv_omega), if_neg (by bv_omega), if_neg hpunct]

theorem rev_ok_iff (c : Byte) : (rev c).ok = true ↔ InAlphabet c := by
  constructor
  · intro h
    by_contra hout
    rw [rev_of_not_inAlphabet hout] at h
    cases h
  · rintro (h | h | h | h)
    · rw [rev_decimal h]
    · rw [rev_upper h]
    · rw [rev_lower h]
    · rw [rev_punct h]

/-! ## The tables undo each other -/

theorem rev_fwd {v : Digit} (h : v.toNat ≤ 84) : rev (fwd v) = ⟨true, v⟩ := by
  by_cases hdecimal : v.toNat ≤ 9
  · have hf := fwd_decimal_toNat hdecimal
    rw [rev_decimal (by omega), hf, Nat.add_sub_cancel_left, BitVec.ofNat_toNat, BitVec.setWidth_eq]
  by_cases hupper : v.toNat ≤ 35
  · have hf := fwd_upper_toNat (by omega) hupper
    rw [rev_upper (by omega), hf, Nat.add_sub_cancel_left, Nat.sub_add_cancel (by omega), BitVec.ofNat_toNat,
      BitVec.setWidth_eq]
  by_cases hlower : v.toNat ≤ 61
  · have hf := fwd_lower_toNat (by omega) hlower
    rw [rev_lower (by omega), hf, Nat.add_sub_cancel_left, Nat.sub_add_cancel (by omega), BitVec.ofNat_toNat,
      BitVec.setWidth_eq]
  · have hlt : v.toNat - 62 < punct.length := Nat.sub_lt_left_of_lt_add (by omega) (Nat.lt_succ_of_le h)
    rw [fwd_punct (by omega), List.getD_eq_getElem _ _ hlt, rev_punct (List.getElem_mem hlt),
      punct_nodup.idxOf_getElem, Nat.add_sub_cancel' (by omega), BitVec.ofNat_toNat, BitVec.setWidth_eq]

theorem fwd_rev {c : Byte} (h : (rev c).ok = true) : fwd (rev c).val = c := by
  rcases (rev_ok_iff c).1 h with hdecimal | hupper | hlower | hpunct
  · have hv : (rev c).val.toNat = c.toNat - 0x30 := by
      rw [rev_decimal hdecimal]
      exact Nat.mod_eq_of_lt (by omega)
    rw [← BitVec.toNat_inj, fwd_decimal_toNat (by omega)]
    omega
  · have hv : (rev c).val.toNat = c.toNat - 0x41 + 10 := by
      rw [rev_upper hupper]
      exact Nat.mod_eq_of_lt (by omega)
    rw [← BitVec.toNat_inj, fwd_upper_toNat (by omega) (by omega)]
    omega
  · have hv : (rev c).val.toNat = c.toNat - 0x61 + 36 := by
      rw [rev_lower hlower]
      exact Nat.mod_eq_of_lt (by omega)
    rw [← BitVec.toNat_inj, fwd_lower_toNat (by omega) (by omega)]
    omega
  · have hlt : punct.idxOf c < punct.length := List.idxOf_lt_length_of_mem hpunct
    have hv : (rev c).val.toNat = 62 + punct.idxOf c := by
      have hlength : punct.length = 23 := rfl
      rw [rev_punct hpunct]
      exact Nat.mod_eq_of_lt (by omega)
    rw [fwd_punct (by omega), hv, Nat.add_sub_cancel_left, List.getD_eq_getElem _ _ hlt, List.getElem_idxOf]

/-! ## The invalid symbols -/

theorem mem_punct_iff (c : Byte) : c ∈ punct ↔
    c.toNat ∈ [0x21, 0x23, 0x24, 0x25, 0x26, 0x28, 0x29, 0x2A, 0x2B, 0x2D, 0x3B, 0x3C, 0x3D, 0x3E, 0x3F, 0x40, 0x5E,
      0x5F, 0x60, 0x7B, 0x7C, 0x7D, 0x7E] :=
  (List.mem_map_of_injective BitVec.toNat_injective (l := punct)).symm

theorem rev_not_ok_iff (c : Byte) : (rev c).ok = false ↔
    c.toNat ∈ [0x22, 0x27, 0x2C, 0x2E, 0x2F, 0x3A, 0x5B, 0x5C, 0x5D] ∨ c.toNat = 0x20 ∨ c.toNat ≤ 0x1F ∨
      c.toNat = 0x7F ∨ 0x80 ≤ c.toNat := by
  rw [← Bool.not_eq_true, rev_ok_iff, InAlphabet, mem_punct_iff]
  simp only [List.mem_cons, List.not_mem_nil, or_false]
  omega

/-- 43 of the bytes below 0x80 are invalid, and all 128 from there on. -/
theorem length_invalid_bytes :
    ((List.range 256).filter (fun n => (rev (BitVec.ofNat 8 n)).ok == false)).length = 171 := by
  have hlow : ((List.range 128).filter (fun n => (rev (BitVec.ofNat 8 n)).ok == false)).length = 43 := by decide
  have hhigh : ∀ n ∈ (List.range 128).map (128 + ·), ((rev (BitVec.ofNat 8 n)).ok == false) = true := by
    intro n hn
    obtain ⟨m, hmem, rfl⟩ := List.mem_map.1 hn
    have hm : m < 128 := List.mem_range.1 hmem
    have hc : (BitVec.ofNat 8 (128 + m)).toNat = 128 + m := Nat.mod_eq_of_lt (by omega)
    rw [beq_iff_eq, rev_not_ok_iff]
    omega
  rw [List.range_add (n := 128) (m := 128), List.filter_append, List.length_append, hlow, List.filter_eq_self.2 hhigh,
    List.length_map, List.length_range]

/-! ## The LUT reads -/

theorem exec_lutFwd (v : Digit) (s : State) : exec (.lutFwd v) s =
    .next (s.give (if v.toNat ≤ 84 then .lutFwd true (fwd v) else .lutFwd false 0x00)).retire := by
  rw [exec, execLutFwd, lutFwdPort]
  split <;> rfl

theorem exec_lutRev (c : Byte) (s : State) : exec (.lutRev c) s =
    .next (s.give (if (rev c).ok = true then .lutRev true (rev c).val else .lutRev false 0)).retire := by
  rw [exec, execLutRev, lutRevPort]
  split
  · next h => rw [h]
  · next h => rw [rev_of_not_inAlphabet ((rev_ok_iff c).not.1 h)]

/-- Giving the host something and going on writes no register, queue or parameter (40_alphabet_lut.md R70, R71). -/
theorem State.give_retire_frame (r : Returned) (s : State) :
    SameEnc s (s.give r).retire ∧ SameDec s (s.give r).retire ∧ SameParams s (s.give r).retire ∧
      Taken s (s.give r).retire :=
  ⟨⟨rfl, rfl, rfl⟩, ⟨rfl, rfl, rfl, rfl⟩, ⟨rfl, rfl⟩, ⟨rfl, rfl⟩⟩

end Sys2Proof.Machine
end

section
/-! PROOFS. The statements of 40_alphabet_lut.md on the tables and the LUT reads. -/

namespace Sys2Proof.Proofs.AlphabetLut

open Sys2Proof.Machine

/-- Settles O11, by the four runs of the table. -/
theorem forwardTableIsTheAlphabet : Obligations.ForwardTableIsTheAlphabet := by
  intro v hv
  split
  · next h => exact fwd_decimal_toNat h
  split
  · next h => exact fwd_upper_toNat (by omega) h
  split
  · next h => exact fwd_lower_toNat (by omega) h
  · next h =>
    rw [fwd_punct (by omega)]
    exact (List.getD_map (f := BitVec.toNat) ..).symm

/-- Settles O12, run by run: the punctuation characters by their place in the table, which holds each once. -/
theorem tablesAreInverses : Obligations.TablesAreInverses :=
  ⟨fun _ h => rev_fwd h, fun c h => ⟨fwd_rev h, Nat.le_of_lt_succ (rev_val_lt c)⟩⟩

/-- Settles O13: the bytes between the runs of the alphabet, then their count. -/
theorem invalidSymbolsAreThose171 : Obligations.InvalidSymbolsAreThose171 :=
  ⟨rev_not_ok_iff, length_invalid_bytes⟩

/-- Settles O14: the read gives the port's outputs to the host, and the offer is taken. -/
theorem lutFwdReadsTheTable : Obligations.LutFwdReadsTheTable :=
  fun v s => ⟨_, exec_lutFwd v s, rfl, State.give_retire_frame _ s⟩

/-- Settles O15: the read gives the port's outputs to the host, and the offer is taken. -/
theorem lutRevReadsTheTable : Obligations.LutRevReadsTheTable :=
  fun c s => ⟨_, exec_lutRev c s, rfl, State.give_retire_frame _ s⟩

end Sys2Proof.Proofs.AlphabetLut
end

section
/-! SUPPORT. The digits of a chunk, the length of Encode and the encoder's input beats in live states (spec
41_encoder.md R74 to R83). -/

namespace Sys2Proof.Machine

/-! ## The digits of a chunk -/

/-- A 32-bit value is below 83 * 85^4 (41_encoder.md R74). -/
theorem chunk_top_digit_le (v : Chunk) : v.toNat / 85 ^ 4 ≤ 82 := by
  have hv := v.isLt
  omega

/-- Each lower quotient is a digit (41_encoder.md R74). -/
theorem mod_div_pow85_le (n k : Nat) : n % 85 ^ (k + 1) / 85 ^ k ≤ 84 := by
  have hlt : n % 85 ^ (k + 1) < 85 * 85 ^ k := by
    rw [← Nat.pow_succ']
    exact Nat.mod_lt _ (by positivity)
  exact Nat.le_of_lt_succ (Nat.div_lt_of_lt_mul (Nat.mul_comm 85 _ ▸ hlt))

/-- The weighted sum of the five quotients (41_encoder.md R74). -/
theorem eq_sum_base85 (n : Nat) :
    n = n / 85 ^ 4 * 85 ^ 4 + n % 85 ^ 4 / 85 ^ 3 * 85 ^ 3 + n % 85 ^ 3 / 85 ^ 2 * 85 ^ 2 + n % 85 ^ 2 / 85 * 85 +
      n % 85 := by
  omega

/-- A digit fits its 7-bit field (00_scope.md R7). -/
theorem toNat_ofNat_digit {n : Nat} (h : n ≤ 84) : (BitVec.ofNat 7 n).toNat = n :=
  Nat.mod_eq_of_lt (by omega)

/-- A digit below a symbol's own has another symbol (40_alphabet_lut.md R69). -/
theorem fwd_ne_of_lt_rev {v : Digit} {c : Byte} (h : v.toNat < (rev c).val.toNat) : fwd v ≠ c := by
  rintro rfl
  have hval := rev_val_lt (fwd v)
  rw [rev_fwd (by omega)] at h
  exact lt_irrefl _ h

/-! ## The length of Encode -/

/-- Five symbols per full chunk, and one more than its bytes for a tail (41_encoder.md R80). -/
theorem encodeBytes_length (bytes : List Byte) :
    (encodeBytes bytes).length =
      5 * (bytes.length / 4) + (if bytes.length % 4 = 0 then 0 else bytes.length % 4 + 1) := by
  induction bytes using encodeBytes.induct with
  | case1 => rfl
  | case2 | case3 | case4 => simp [encodeBytes]
  | case5 b0 b1 b2 b3 rest ih =>
    have hlen : (b0 :: b1 :: b2 :: b3 :: rest).length = rest.length + 4 := rfl
    rw [encodeBytes, List.length_append, encodeSyms_length, ih, hlen, Nat.add_mod_right,
      Nat.add_div_right _ (by norm_num)]
    omega

/-! ## An input beat of the encoder in a live state -/

theorem encInReady_iff_free (s : State) :
    encInReady false s = true ↔ 5 ≤ s.cfg.encOutqDepth - s.enc_q.length := by
  simp [encInReady]

theorem exec_of_isEncInput {i : Instr} (hi : isEncInput i = true) {s : State} (hl : s.Live) :
    exec i s = .next (opNext i s) := by
  have hin : (isEncInput i || isDecInput i) = true := by rw [hi, Bool.true_or]
  exact (exec_eq_next_iff (on_channel_of_input hin)).2 ⟨hl, popLegal_of_input hin s, rfl⟩

theorem exec_encInput_taken {i : Instr} (hi : isEncInput i = true) {s : State} (hl : s.Live)
    (hr : encInReady false s = true) : exec i s = .next (opEffect i s).retire := by
  rw [exec_of_isEncInput hi hl, opNext_of_ready (opReady_of_isEncInput hi s ▸ hr)]

theorem exec_encInput_waits {i : Instr} (hi : isEncInput i = true) {s : State} (hl : s.Live)
    (hr : ¬ encInReady false s = true) : exec i s = .next s.pass := by
  rw [exec_of_isEncInput hi hl, opNext_of_not_ready (opReady_of_isEncInput hi s ▸ hr)]

theorem opEffect_retire_live {i : Instr} {s : State} (hl : s.Live) (hr : opReady i s = true) :
    (opEffect i s).retire.Live :=
  opNext_of_ready hr ▸ opNext_live i hl

/-- A beat adds at most five words (41_encoder.md R83). -/
theorem opEffect_enc_q_length {i : Instr} (hi : isEncInput i = true) (s : State) :
    (opEffect i s).enc_q.length ≤ s.enc_q.length + 5 := by
  have hin : (isEncInput i || isDecInput i) = true := by rw [hi, Bool.true_or]
  obtain ⟨hpop, -, hrst⟩ := not_pop_not_rst_of_input hin
  obtain ⟨ws, hq, hws, -⟩ := opEffect_enc_q hpop hrst s
  rw [hq, List.length_append]
  omega

/-! ## A frame's beats, one after the other -/

/-- What a run of encoder input beats leaves as it was: the decoder, the parameters and what the host got back. -/
abbrev EncRunFrame (s t : State) : Prop := SameDec s t ∧ SameParams s t ∧ t.returned = s.returned

theorem EncRunFrame.trans {s t u : State} (h : EncRunFrame s t) (k : EncRunFrame t u) : EncRunFrame s u := by
  obtain ⟨hdec, ⟨hcfg, hseen⟩, hret⟩ := h
  obtain ⟨kdec, ⟨kcfg, kseen⟩, kret⟩ := k
  exact ⟨hdec.trans kdec, ⟨kcfg.trans hcfg, kseen.trans hseen⟩, kret.trans hret⟩

theorem EncBeatFrame.run {s t : State} (h : EncBeatFrame s t) : EncRunFrame s t := by
  obtain ⟨hdec, hpar, hret, -⟩ := h
  exact ⟨hdec, hpar, hret⟩

/-- The beats of a frame, from an encoder that holds the bytes of an open chunk and has room for what is left: the words
of all the bytes and the END word, and an idle encoder (41_encoder.md R79). -/
theorem execAll_encFrame (bytes : List Byte) (r : Byte) {held : List Byte} {s : State} (hl : s.Live)
    (hholds : EncHolds held s) (hroom : EncRoom held bytes.length s) :
    ∃ t, execAll (bytes.map .encData ++ [.encEnd r]) s = .next t ∧
      t.enc_q = s.enc_q ++ (encodeBytes (held ++ bytes)).map dataW ++ [endW .ok] ∧ t.EncIdle ∧ EncRunFrame s t := by
  induction bytes generalizing held s with
  | nil =>
    refine ⟨(encEndEffect s).retire, execAll_cons_of_next [] (exec_encInput_taken (i := .encEnd r) rfl hl hroom.ready),
      ?_, ⟨rfl, rfl⟩, (encEndEffect_frame s).run⟩
    rw [List.append_nil, ← encTail_of_holds hholds, List.append_assoc]
    rfl
  | cons b bytes ih =>
    have hx := exec_encInput_taken (i := .encData b) rfl hl hroom.ready
    obtain ⟨held', hholds', hwords, hroom'⟩ := encDataEffect_of_holds b hholds
    have hl' := opEffect_retire_live (i := .encData b) hl hroom.ready
    obtain ⟨t, ht, hq, hidle, hframe⟩ := ih hl' hholds' (hroom' _ hroom)
    refine ⟨t, (execAll_cons_of_next _ hx).trans ht, ?_, hidle, (encDataEffect_frame b s).run.trans hframe⟩
    rw [hq, ← hwords]
    rfl

end Sys2Proof.Machine
end

section
/-! PROOFS. The statements of 41_encoder.md on Encode and on the encoder's input beats. -/

namespace Sys2Proof.Proofs.Encoder

open Sys2Proof.Machine

/-- Settles O21, by induction on the frame's bytes, the encoder holding those of the open chunk. -/
theorem encoderFrameIsEncode : Obligations.EncoderFrameIsEncode := by
  intro bytes r s hl hidle hroom
  have hroom' : EncRoom [] bytes.length s := by simpa [EncRoom] using hroom
  exact execAll_encFrame bytes r hl hidle.holds hroom'

/-- Settles O16: each quotient fits a digit, and the first is too small for the last two symbols of the alphabet. -/
theorem chunkDigitsAreBase85 : Obligations.ChunkDigitsAreBase85 := by
  intro v
  have h0 := chunk_top_digit_le v
  have h1 : v.toNat % 85 ^ 4 / 85 ^ 3 ≤ 84 := mod_div_pow85_le _ 3
  have h2 : v.toNat % 85 ^ 3 / 85 ^ 2 ≤ 84 := mod_div_pow85_le _ 2
  have h3 : v.toNat % 85 ^ 2 / 85 ≤ 84 := mod_div_pow85_le _ 1
  have h4 : v.toNat % 85 ≤ 84 := by omega
  have hd0 := toNat_ofNat_digit (h0.trans (by norm_num))
  refine ⟨_, _, _, _, _, rfl, rfl, hd0, toNat_ofNat_digit h1, toNat_ofNat_digit h2, toNat_ofNat_digit h3,
    toNat_ofNat_digit h4, ?_⟩
  rw [hd0, toNat_ofNat_digit h1, toNat_ofNat_digit h2, toNat_ofNat_digit h3, toNat_ofNat_digit h4]
  have h7D : (rev 0x7D).val.toNat = 83 := by decide
  have h7E : (rev 0x7E).val.toNat = 84 := by decide
  exact ⟨h0, h1, h2, h3, h4, eq_sum_base85 _, fwd_ne_of_lt_rev (by omega), fwd_ne_of_lt_rev (by omega)⟩

/-- Settles O17, by whether the byte fills its chunk. -/
theorem encDataPlacesItsByte : Obligations.EncDataPlacesItsByte := by
  intro b s hl hr
  refine ⟨_, exec_encInput_taken rfl hl ((encInReady_iff_free s).2 hr), encDataEffect_frame b s, ?_⟩
  rcases encDataEffect_cases b s with ⟨hlt, heq⟩ | ⟨h3, heq⟩
  · rw [if_pos hlt, opEffect, heq]
    exact ⟨rfl, Fin.val_add_one_of_lt' (by omega), rfl⟩
  · rw [if_neg (by omega), opEffect, heq, h3]
    exact ⟨rfl, rfl, rfl⟩

/-- Settles O19: the tail's words and EndW(OK) join the queue. -/
theorem encEndEmitsTailAndOk : Obligations.EncEndEmitsTailAndOk := by
  intro r s hl hr
  refine ⟨_, exec_encInput_taken rfl hl ((encInReady_iff_free s).2 hr), encEndEffect_frame s, rfl, rfl, ?_⟩
  simp only [Fin.val_eq_zero_iff, List.append_assoc]
  rfl

/-- Settles O20, by whether five slots are free. -/
theorem encoderInputWaitsForRoom : Obligations.EncoderInputWaitsForRoom := by
  intro i s hi hl
  constructor
  · intro hfree
    exact exec_encInput_waits hi hl ((encInReady_iff_free s).not.2 (by omega))
  · intro hfree
    have hlen := opEffect_enc_q_length hi s
    refine ⟨_, exec_encInput_taken hi hl ((encInReady_iff_free s).2 hfree), opEffect_taken i s, hlen, ?_⟩
    rw [State.retire_enc_q, State.retire_cfg, opEffect_cfg]
    omega

/-- Settles O22, along the chunks of the list. -/
theorem encodedLength : Obligations.EncodedLength :=
  encodeBytes_length

end Sys2Proof.Proofs.Encoder
end

section
/-! SUPPORT. Decode group by group, on symbols still to come after an open group, and the decoder's stream of a frame
(spec 42_decoder.md R85 to R98). -/

namespace Sys2Proof.Machine

/-! ## Decode, one group at a time -/

/-- The groups after one of this result: none after a failure, else those that start with the status it leaves
(42_decoder.md R85, R87). -/
def FrameResult.andThen (next : Status → FrameResult) : FrameResult → FrameResult
  | .done data st => (next st).after data
  | .failed st => .failed st

theorem FrameResult.after_nil (r : FrameResult) : r.after [] = r := by cases r <;> rfl

/-- A last group has no group after it. -/
theorem FrameResult.andThen_done_nil (r : FrameResult) : r.andThen (.done []) = r := by
  cases r with
  | done data st => exact congrArg (FrameResult.done · st) (List.append_nil data)
  | failed st => rfl

/-- Decode takes the first five symbols, or all of a shorter tail, as one group (42_decoder.md R87). -/
theorem decodeGroups_eq_andThen (mode : OvfMode) (st : Status) {symbols : List Byte} (h : symbols ≠ []) :
    decodeGroups mode st symbols =
      (decodeGroup mode st (symbols.take 5)).andThen (decodeGroups mode · (symbols.drop 5)) := by
  match symbols, h with
  | [_], _ | [_, _], _ | [_, _, _], _ | [_, _, _, _], _ => exact (FrameResult.andThen_done_nil _).symm
  | c0 :: c1 :: c2 :: c3 :: c4 :: rest, _ =>
    rw [decodeGroups, List.take, List.take, List.take, List.take, List.take, List.take_zero]
    cases decodeGroup mode st [c0, c1, c2, c3, c4] <;> rfl

theorem decodeGroups_of_length_le (mode : OvfMode) (st : Status) {g : List Byte} (h : g ≠ []) (hlen : g.length ≤ 5) :
    decodeGroups mode st g = decodeGroup mode st g := by
  rw [decodeGroups_eq_andThen mode st h, List.take_of_length_le hlen, List.drop_of_length_le hlen]
  exact FrameResult.andThen_done_nil _

theorem decodeGroups_append (mode : OvfMode) (st : Status) {g : List Byte} (hlen : g.length = 5) (rest : List Byte) :
    decodeGroups mode st (g ++ rest) = (decodeGroup mode st g).andThen (decodeGroups mode · rest) := by
  have hne : g ++ rest ≠ [] := List.append_ne_nil_of_left_ne_nil (List.ne_nil_of_length_eq_add_one hlen) rest
  rw [decodeGroups_eq_andThen mode st hne, ← hlen, List.take_left, List.drop_left]

/-- A symbol outside the alphabet fails its group before the fold does (42_decoder.md R85, R90). -/
theorem decodeGroup_invalid (mode : OvfMode) (st : Status) {g : List Byte} {c : Byte} (hmem : c ∈ g)
    (hc : (rev c).ok = false) : decodeGroup mode st g = .failed .invalidSymbol :=
  if_pos (List.any_eq_true.2 ⟨c, hmem, by rw [hc]; rfl⟩)

/-- A symbol outside the alphabet after an open group fails the frame (42_decoder.md R90, R96). -/
theorem decodeGroups_invalid (mode : OvfMode) (st : Status) {held : List Byte} {c : Byte} (rest : List Byte)
    (hlen : held.length < 5) (hc : (rev c).ok = false) :
    decodeGroups mode st (held ++ c :: rest) = .failed .invalidSymbol := by
  have hmem : c ∈ (held ++ c :: rest).take 5 :=
    List.mem_take_iff_getElem.2 ⟨held.length, by simp; omega, by simp⟩
  rw [decodeGroups_eq_andThen mode st (by simp), decodeGroup_invalid mode st hmem hc]
  rfl

/-! ## A group's result -/

/-- The bytes a result returns (42_decoder.md R85). -/
def FrameResult.data : FrameResult → List Byte
  | .done data _ => data
  | .failed _ => []

/-- A result whose status says whether it failed (10_state.md R23). -/
def FrameResult.Decided : FrameResult → Prop
  | .done _ st => st.failed = false
  | .failed st => st.failed = true

/-- Such a result is the verdict on its bytes under its status (43_stream_control.md R108). -/
theorem FrameResult.Decided.eq_frameResult {r : FrameResult} (h : r.Decided) :
    r = frameResult r.data (groupStatus r) := by
  cases r with
  | done data st => exact (if_neg (Bool.eq_false_iff.1 h)).symm
  | failed st => exact (if_pos h).symm

theorem decodeGroup_decided (mode : OvfMode) {st : Status} (g : List Byte) (hst : st.failed = false) :
    (decodeGroup mode st g).Decided := by
  unfold decodeGroup
  split
  · exact Status.failed_invalidSymbol
  · split
    · exact hst
    · cases mode with
      | wrap => exact Status.failed_okWrapped
      | fail => exact Status.failed_overflow

theorem groupWords_eq (last : Bool) (r : FrameResult) :
    groupWords last r = r.data.map dataW ++ (if last = true then [endW (groupStatus r)] else []) := by
  cases r <;> rfl

/-! ## The rest of a frame after an open group -/

/-- What the rest of a frame gives after an open group, `symbols` being its text without spaces: Decode of the two
together, or the failure there is already (42_decoder.md R85, R91). -/
def decodeOpen (mode : OvfMode) (g : OpenGroup) (symbols : List Byte) : FrameResult :=
  if g.2.failed = true then .failed g.2 else decodeGroups mode g.2 (g.1 ++ symbols)

theorem decodeBytes_eq_decodeOpen (mode : OvfMode) (text : List Byte) :
    decodeBytes mode text = decodeOpen mode ([], .ok) (text.filter (fun c => c != 0x20#8)) := rfl

theorem decodeOpen_failed (mode : OvfMode) (held : List Byte) {st : Status} (symbols : List Byte)
    (h : st.failed = true) : decodeOpen mode (held, st) symbols = .failed st := if_pos h

theorem decodeOpen_normal (mode : OvfMode) (held : List Byte) {st : Status} (symbols : List Byte)
    (h : st.failed = false) : decodeOpen mode (held, st) symbols = decodeGroups mode st (held ++ symbols) :=
  if_neg (Bool.eq_false_iff.1 h)

/-- A symbol joins the open group (42_decoder.md R90). -/
theorem decodeOpen_cons (mode : OvfMode) (held : List Byte) (st : Status) (c : Byte) (symbols : List Byte) :
    decodeOpen mode (held, st) (c :: symbols) = decodeOpen mode (held ++ [c], st) symbols := by
  rw [decodeOpen, decodeOpen, List.append_cons]

/-- The group is full: what follows starts with none and the status this one leaves (42_decoder.md R94). -/
theorem decodeOpen_full (mode : OvfMode) {g : List Byte} {st : Status} (symbols : List Byte) (hlen : g.length = 5)
    (hst : st.failed = false) :
    decodeOpen mode (g, st) symbols =
      (decodeOpen mode ([], groupStatus (decodeGroup mode st g)) symbols).after (decodeGroup mode st g).data := by
  have hdecided := decodeGroup_decided mode g hst
  rw [decodeOpen_normal mode g symbols hst, decodeGroups_append mode st hlen]
  cases hr : decodeGroup mode st g with
  | done data st' =>
    rw [hr] at hdecided
    rw [groupStatus, decodeOpen_normal mode [] symbols hdecided]
    rfl
  | failed e =>
    rw [hr] at hdecided
    rw [groupStatus, decodeOpen_failed mode [] symbols hdecided]
    rfl

/-! ## The words of a frame -/

/-- A symbol gives the stream the bytes it gives Decode, and leaves both with one open group (42_decoder.md R90 to
R94). -/
theorem decStream_symbol (mode : OvfMode) (c : Byte) {held : List Byte} (st : Status) (hlen : held.length < 5) :
    ∃ out held' st', held'.length < 5 ∧
      (∀ is, decStream mode held st (.decData c :: is) = out.map dataW ++ decStream mode held' st' is) ∧
      ∀ symbols, decodeOpen mode (held, st) (c :: symbols) = (decodeOpen mode (held', st') symbols).after out := by
  cases hst : st.failed with
  | true =>
    refine ⟨[], held, st, hlen, fun is => if_pos hst, fun symbols => ?_⟩
    rw [decodeOpen_failed mode _ _ hst, decodeOpen_failed mode _ _ hst, FrameResult.after_nil]
  | false =>
    cases hc : (rev c).ok with
    | false =>
      refine ⟨[], [], .invalidSymbol, Nat.zero_lt_succ _, fun is => by simp [decStream, hst, hc], fun symbols => ?_⟩
      rw [decodeOpen_normal mode _ _ hst, decodeGroups_invalid mode st _ hlen hc, FrameResult.after_nil]
      rfl
    | true =>
      by_cases hlt : held.length < 4
      · refine ⟨[], held ++ [c], st, by simp; omega, fun is => by simp [decStream, hst, hc, hlt], fun symbols => ?_⟩
        rw [decodeOpen_cons, FrameResult.after_nil]
      · refine ⟨(decodeGroup mode st (held ++ [c])).data, [], groupStatus (decodeGroup mode st (held ++ [c])),
          Nat.zero_lt_succ _, fun is => by simp [decStream, hst, hc, hlt, groupWords_eq], fun symbols => ?_⟩
        rw [decodeOpen_cons, decodeOpen_full mode symbols (by simp; omega) hst]

/-- The words of a frame: DATA words and one END word, read as this result (43_stream_control.md R108). -/
def FrameWords (ws : List OutWord) (r : FrameResult) : Prop :=
  ∃ data st, ws = data.map dataW ++ [endW st] ∧ r = frameResult data st

theorem FrameWords.prepend {ws : List OutWord} {r : FrameResult} (out : List Byte) (h : FrameWords ws r) :
    FrameWords (out.map dataW ++ ws) (r.after out) := by
  obtain ⟨data, st, rfl, rfl⟩ := h
  refine ⟨out ++ data, st, by rw [List.map_append, List.append_assoc], ?_⟩
  unfold frameResult
  split <;> rfl

/-- The END beat gives the words of the open group's result, or the END word alone (42_decoder.md R92, R95). -/
theorem decStream_end (mode : OvfMode) {held : List Byte} (st : Status) (r : Byte) (hlen : held.length < 5) :
    FrameWords (decStream mode held st [.decEnd r]) (decodeOpen mode (held, st) []) := by
  have hstream : decStream mode held st [.decEnd r] = _ := List.append_nil _
  rw [hstream]
  cases hst : st.failed with
  | true => exact ⟨[], st, if_pos (.inl rfl), (decodeOpen_failed mode held [] hst).trans (if_pos hst).symm⟩
  | false =>
    rw [decodeOpen_normal mode held [] hst, List.append_nil]
    by_cases hheld : held = []
    · rw [hheld]
      exact ⟨[], st, if_pos (.inr rfl), (if_neg (Bool.eq_false_iff.1 hst)).symm⟩
    · rw [decodeGroups_of_length_le mode st hheld hlen.le]
      exact ⟨_, _, (if_neg (by simpa using hheld)).trans (groupWords_eq true _),
        (decodeGroup_decided mode held hst).eq_frameResult⟩

theorem decFrameInstrs_cons (c : Byte) (text : List Byte) :
    decFrameInstrs (c :: text) = decFrameBeat c :: decFrameInstrs text := rfl

/-- The decoder's stream of a frame's beats gives the words of Decode's result (42_decoder.md R85). -/
theorem decStream_decFrame (mode : OvfMode) (text : List Byte) {held : List Byte} (st : Status)
    (hlen : held.length < 5) :
    FrameWords (decStream mode held st (decFrameInstrs text))
      (decodeOpen mode (held, st) (text.filter (fun c => c != 0x20#8))) := by
  induction text generalizing held st with
  | nil => exact decStream_end mode st 0 hlen
  | cons c text ih =>
    by_cases hspace : c = 0x20#8
    · subst hspace
      exact ih st hlen
    · obtain ⟨out, held', st', hlen', hwords, hresult⟩ := decStream_symbol mode c st hlen
      have hfilter : (c :: text).filter (fun c => c != 0x20#8) = c :: text.filter (fun c => c != 0x20#8) :=
        List.filter_cons_of_pos (bne_iff_ne.2 hspace)
      rw [decFrameInstrs_cons, decFrameBeat, if_neg hspace, hwords, hfilter, hresult]
      exact (ih st' hlen').prepend out

end Sys2Proof.Machine
end

section
/-! SUPPORT. The decoder's input beats in live states (spec 42_decoder.md R89 to R97). -/

namespace Sys2Proof.Machine

/-! ## An input beat of the decoder in a live state -/

theorem exec_of_isDecInput {i : Instr} (hi : isDecInput i = true) {s : State} (hl : s.Live) :
    exec i s = .next (opNext i s) := by
  have hin : (isEncInput i || isDecInput i) = true := by rw [hi, Bool.or_true]
  exact (exec_eq_next_iff (on_channel_of_input hin)).2 ⟨hl, popLegal_of_input hin s, rfl⟩

theorem exec_decInput_taken {i : Instr} (hi : isDecInput i = true) {s : State} (hl : s.Live)
    (hr : decInReady false s = true) : exec i s = .next (opEffect i s).retire := by
  rw [exec_of_isDecInput hi hl, opNext_of_ready (opReady_of_isDecInput hi s ▸ hr)]

theorem exec_decInput_waits {i : Instr} (hi : isDecInput i = true) {s : State} (hl : s.Live)
    (hr : ¬ decInReady false s = true) : exec i s = .next s.pass := by
  rw [exec_of_isDecInput hi hl, opNext_of_not_ready (opReady_of_isDecInput hi s ▸ hr)]

/-- No input beat of the decoder changes the encoder, the parameters or what the host got back. -/
theorem opEffect_decBeatFrame {i : Instr} (hi : isDecInput i = true) (s : State) :
    DecBeatFrame s (opEffect i s).retire := by
  cases i with
  | decSpace => exact ⟨⟨rfl, rfl, rfl⟩, ⟨rfl, rfl⟩, rfl, rfl, rfl⟩
  | decData c => exact decDataEffect_frame c s
  | decEnd _ => exact decEndEffect_frame s
  | encData _ | encEnd _ | lutFwd _ | lutRev _ | encPop | decPop | rst => cases hi

theorem decInReady_iff_free (s : State) :
    decInReady false s = true ↔ 4 ≤ s.cfg.decOutqDepth - s.dec_q.length := by
  simp [decInReady]

/-- A beat adds at most four words (42_decoder.md R97). -/
theorem opEffect_dec_q_length {i : Instr} (hi : isDecInput i = true) (s : State) :
    (opEffect i s).dec_q.length ≤ s.dec_q.length + 4 := by
  have hin : (isEncInput i || isDecInput i) = true := by rw [hi, Bool.or_true]
  obtain ⟨-, hpop, hrst⟩ := not_pop_not_rst_of_input hin
  obtain ⟨ws, hq, hws, -⟩ := opEffect_dec_q hpop hrst s
  rw [hq, List.length_append]
  omega

/-! ## A frame's beats, one after the other -/

/-- What a run of decoder input beats leaves as it was: the encoder, the parameters and what the host got back. -/
abbrev DecRunFrame (s t : State) : Prop := SameEnc s t ∧ SameParams s t ∧ t.returned = s.returned

theorem DecRunFrame.trans {s t u : State} (h : DecRunFrame s t) (k : DecRunFrame t u) : DecRunFrame s u := by
  obtain ⟨henc, ⟨hcfg, hseen⟩, hret⟩ := h
  obtain ⟨kenc, ⟨kcfg, kseen⟩, kret⟩ := k
  exact ⟨henc.trans kenc, ⟨kcfg.trans hcfg, kseen.trans hseen⟩, kret.trans hret⟩

theorem DecBeatFrame.run {s t : State} (h : DecBeatFrame s t) : DecRunFrame s t := by
  obtain ⟨henc, hpar, hret, -⟩ := h
  exact ⟨henc, hpar, hret⟩

/-- Where the host got nothing back, words that joined the sequence joined the queue. -/
theorem dec_q_of_decSequence {s t : State} {ws : List OutWord} (hret : t.returned = s.returned)
    (h : decSequence t = decSequence s ++ ws) : t.dec_q = s.dec_q ++ ws := by
  rw [decSequence, decSequence, hret, List.append_assoc] at h
  exact List.append_cancel_left h

/-- A beat taken is the first of the beats a run takes. -/
theorem decTaken_cons_taken {i : Instr} (hi : isDecInput i = true) {s t : State} (hr : decInReady false s = true)
    (is : List Instr) (h : exec i s = .next t) : decTaken (i :: is) s = i :: decTaken is t := by
  rw [decTaken, takenInputs_cons_of_next _ _ is h, hi, hr]
  rfl

/-- The beats of a frame that finds room for its words are all taken, and leave an idle decoder (42_decoder.md R92,
R97). -/
theorem execAll_decFrame (text : List Byte) {s : State} (hl : s.Live) (hroom : DecRoom (symbolCount text) s) :
    ∃ t, execAll (decFrameInstrs text) s = .next t ∧ decTaken (decFrameInstrs text) s = decFrameInstrs text ∧
      t.DecIdle ∧ DecRunFrame s t := by
  induction text generalizing s with
  | nil =>
    have hx := exec_decInput_taken (i := .decEnd 0) rfl hl hroom.ready
    exact ⟨_, execAll_cons_of_next [] hx, decTaken_cons_taken rfl hroom.ready [] hx, ⟨rfl, rfl, rfl⟩,
      (decEndEffect_frame s).run⟩
  | cons c text ih =>
    have hi := isDecInput_decFrameBeat c
    have hx := exec_decInput_taken hi hl hroom.ready
    have hl' := opEffect_retire_live hl ((opReady_of_isDecInput hi s).trans hroom.ready)
    obtain ⟨t, ht, htaken, hidle, hframe⟩ := ih hl' (hroom.after_beat c)
    refine ⟨t, (execAll_cons_of_next _ hx).trans ht, ?_, hidle, (opEffect_decBeatFrame hi s).run.trans hframe⟩
    rw [decFrameInstrs_cons, decTaken_cons_taken hi hroom.ready _ hx, htaken]

theorem not_mem_rst_decFrameInstrs (text : List Byte) : Instr.rst ∉ decFrameInstrs text := by
  intro h
  rcases List.mem_append.1 h with h | h
  · obtain ⟨c, -, hc⟩ := List.mem_map.1 h
    have hi := isDecInput_decFrameBeat c
    rw [hc] at hi
    cases hi
  · cases List.mem_singleton.1 h

end Sys2Proof.Machine
end

section
/-! SUPPORT. What the decoder's input beats write, in natural numbers (spec 42_decoder.md R88 to R95). -/

namespace Sys2Proof.Machine

/-! ## The fold -/

/-- Folding copies of 84 onto an accumulator in closed form (42_decoder.md R95). -/
theorem foldl_replicate_84 (acc m : Nat) :
    (List.replicate m 84#7).foldl (fun a v => a * 85 + v.toNat) acc = acc * 85 ^ m + (85 ^ m - 1) := by
  induction m with
  | zero => simp
  | succ m ih =>
    have hpos : 0 < 85 ^ m := by positivity
    have h84 : (84#7).toNat = 84 := rfl
    rw [List.replicate_succ', List.foldl_append, ih, List.foldl_cons, List.foldl_nil, h84, pow_succ, ← Nat.mul_assoc]
    omega

/-- The fold of a full group as a weighted sum (42_decoder.md R88). -/
theorem groupFold_five (c0 c1 c2 c3 c4 : Byte) :
    groupFold [c0, c1, c2, c3, c4] =
      (rev c0).val.toNat * 85 ^ 4 + (rev c1).val.toNat * 85 ^ 3 + (rev c2).val.toNat * 85 ^ 2 +
        (rev c3).val.toNat * 85 + (rev c4).val.toNat := by
  simp [groupFold, foldDigits]
  omega

/-- The fold of a symbol that does not complete its group fits 32 bits (42_decoder.md R90). -/
theorem foldStep_setWidth_toNat {s : State} (hi : s.Inv) (c : Byte) (hk : s.dec_cnt.val < 4) :
    ((foldStep s.dec_acc (rev c).val).setWidth 32).toNat = s.dec_acc.toNat * 85 + (rev c).val.toNat := by
  have ⟨_, hbound, _⟩ := hi
  have hsmall : s.dec_acc.toNat < 85 ^ 3 := hbound.trans_le (Nat.pow_le_pow_right (by norm_num) (by omega))
  have hval := rev_val_lt c
  rw [BitVec.toNat_setWidth, foldStep_of_inv hi]
  exact Nat.mod_eq_of_lt (by omega)

/-! ## Resolve -/

/-- Resolve as one choice: the value where it fits, else its low 32 bits or the failure, by the mode (42_decoder.md
R93). -/
theorem resolve_eq (mode : OvfMode) (st : Status) (t : Fold) :
    resolve mode st t =
      if t.toNat ≤ 2 ^ 32 - 1 then .emit (t.setWidth 32) st
      else if mode = .wrap then .emit (t.setWidth 32) .okWrapped
      else .overflow := by
  by_cases h : t.toNat ≤ 2 ^ 32 - 1
  · rw [if_pos h, resolve_of_le mode st h]
  · rw [if_neg h]
    cases mode with
    | wrap => exact resolve_wrap st (Nat.lt_of_not_le h)
    | fail => exact resolve_fail st (Nat.lt_of_not_le h)

/-- The bytes of the low 32 bits of a fold, most significant first (00_scope.md R10, 42_decoder.md R93). -/
theorem bytesOf_setWidth (t : Fold) :
    bytesOf (t.setWidth 32) =
      [t.toNat / 2 ^ 24 % 256, t.toNat / 2 ^ 16 % 256, t.toNat / 2 ^ 8 % 256, t.toNat % 256].map (BitVec.ofNat 8) := by
  simp [bytesOf, ← BitVec.toNat_inj, byteAt_toNat]
  omega

/-- The first three of them, which are all a tail can return (42_decoder.md R95). -/
theorem bytesOf_setWidth_take (t : Fold) {n : Nat} (hn : n ≤ 3) :
    (bytesOf (t.setWidth 32)).take n =
      ([t.toNat / 2 ^ 24 % 256, t.toNat / 2 ^ 16 % 256, t.toNat / 2 ^ 8 % 256].take n).map (BitVec.ofNat 8) := by
  rw [bytesOf_setWidth, ← List.map_take]
  exact congrArg (List.map _) (List.take_append_of_le_length (l₁ := [_, _, _]) hn)

/-- The three results of a full group (42_decoder.md R93, R94). -/
theorem completeGroup_eq (t : Fold) (s : State) :
    completeGroup t s =
      if t.toNat ≤ 2 ^ 32 - 1 then
        ((s.emitDec ((bytesOf (t.setWidth 32)).map dataW)).setStatus s.dec_st).setGroup 0 0
      else if s.cfg.ovfMode = .wrap then
        ((s.emitDec ((bytesOf (t.setWidth 32)).map dataW)).setStatus .okWrapped).setGroup 0 0
      else failFrame .overflow s := by
  rw [completeGroup, resolve_eq]
  split_ifs <;> rfl

/-- The three results of a tail whose padded fold is `t` (42_decoder.md R93, R95). -/
theorem tailWords_eq {s : State} {t : Fold} (ht : foldPadded s.dec_acc (5 - s.dec_cnt.val) = t) :
    tailWords s =
      if t.toNat ≤ 2 ^ 32 - 1 then ((bytesOf (t.setWidth 32)).take (s.dec_cnt.val - 1)).map dataW ++ [endW s.dec_st]
      else if s.cfg.ovfMode = .wrap then
        ((bytesOf (t.setWidth 32)).take (s.dec_cnt.val - 1)).map dataW ++ [endW .okWrapped]
      else [endW .overflow] := by
  rw [tailWords, ht, resolve_eq]
  split_ifs <;> rfl

end Sys2Proof.Machine
end

section
/-! SUPPORT. The fold of a group that Encode wrote, and the bytes it decodes to (spec 42_decoder.md R88, R95, R99). -/

namespace Sys2Proof.Machine

/-! ## The symbols Encode writes -/

theorem encodeDigits_le {v : Chunk} {d : Digit} (h : d ∈ encodeDigits v) : d.toNat ≤ 84 := by
  obtain ⟨n, hn, rfl⟩ := List.mem_map.1 h
  simp only [List.mem_cons, List.not_mem_nil, or_false] at hn
  rw [BitVec.toNat_ofNat]
  omega

theorem rev_ok_of_mem_encodeSyms {v : Chunk} {c : Byte} (h : c ∈ encodeSyms v) : (rev c).ok = true := by
  obtain ⟨d, hd, rfl⟩ := List.mem_map.1 h
  rw [rev_fwd (encodeDigits_le hd)]

/-- The reverse table gives back the digits of a chunk's symbols (40_alphabet_lut.md R69). -/
theorem digitsOf_encodeSyms_take (v : Chunk) (n : Nat) :
    digitsOf ((encodeSyms v).take n) = (encodeDigits v).take n := by
  rw [digitsOf, encodeSyms, ← List.map_take, List.map_map]
  refine (List.map_congr_left fun d hd => ?_).trans (List.map_id _)
  rw [Function.comp_apply, rev_fwd (encodeDigits_le (List.mem_of_mem_take hd))]
  rfl

/-- Every symbol Encode writes is in the alphabet (41_encoder.md R74). -/
theorem rev_ok_of_mem_encodeBytes {bytes : List Byte} {c : Byte} (h : c ∈ encodeBytes bytes) : (rev c).ok = true := by
  induction bytes using encodeBytes.induct with
  | case1 => cases h
  | case2 | case3 | case4 => exact rev_ok_of_mem_encodeSyms (List.mem_of_mem_take h)
  | case5 b0 b1 b2 b3 rest ih =>
    rcases List.mem_append.1 h with h | h
    · exact rev_ok_of_mem_encodeSyms h
    · exact ih h

/-! ## The fold of the first symbols of a chunk -/

/-- The first digits of a chunk fold to its value without the lower digits (41_encoder.md R74, 42_decoder.md R88). -/
theorem foldDigits_encodeDigits_take (v : Chunk) {n : Nat} (hn : n ≤ 4) :
    foldDigits ((encodeDigits v).take (n + 1)) = v.toNat / 85 ^ (4 - n) := by
  obtain ⟨d0, d1, d2, d3, d4, heq, -, h0, h1, h2, h3, h4, -⟩ := Proofs.Encoder.chunkDigitsAreBase85 v
  rw [heq]
  interval_cases n <;> simp [foldDigits, h0, h1, h2, h3, h4] <;> omega

/-- The symbols of `n` bytes, padded with 84s, fold to the chunk's value without its lower digits, plus the largest
value of those digits (42_decoder.md R95). -/
theorem groupFold_encodeSyms_take (v : Chunk) {n : Nat} (hn : n ≤ 4) :
    groupFold ((encodeSyms v).take (n + 1)) = v.toNat / 85 ^ (4 - n) * 85 ^ (4 - n) + (85 ^ (4 - n) - 1) := by
  have hlen : ((encodeSyms v).take (n + 1)).length = n + 1 := by
    rw [List.length_take, encodeSyms_length]
    omega
  have hpad : 5 - (n + 1) = 4 - n := by omega
  rw [groupFold_eq, digitsOf_encodeSyms_take, foldDigits_encodeDigits_take v hn, hlen, hpad]

/-- Where the bytes after the first `n` are zero the padding stays within them: it is below 85^(4-n), and so below
256^(4-n) (42_decoder.md R99). -/
theorem groupFold_encodeSyms_div {v : Chunk} {n : Nat} (hn : n ≤ 4) (hclear : v.toNat % 2 ^ (32 - 8 * n) = 0) :
    groupFold ((encodeSyms v).take (n + 1)) ≤ 2 ^ 32 - 1 ∧
      groupFold ((encodeSyms v).take (n + 1)) / 2 ^ (32 - 8 * n) = v.toNat / 2 ^ (32 - 8 * n) := by
  have hv := v.isLt
  rw [groupFold_encodeSyms_take v hn]
  interval_cases n <;> norm_num at hclear ⊢ <;> omega

/-- The first `n` bytes of a value are those of its quotient by the others (00_scope.md R10). -/
theorem bytesOf_take_congr {u v : Chunk} {n : Nat} (hn : n ≤ 4)
    (h : u.toNat / 2 ^ (32 - 8 * n) = v.toNat / 2 ^ (32 - 8 * n)) : (bytesOf u).take n = (bytesOf v).take n := by
  interval_cases n <;> simp [bytesOf, ← BitVec.toNat_inj, byteAt_toNat] at h ⊢ <;> omega

/-- The symbols of `n` bytes of a chunk whose other bytes are zero decode to them (42_decoder.md R99). -/
theorem decodeGroup_encodeSyms_take (mode : OvfMode) (st : Status) {v : Chunk} {n : Nat} (hn : n ≤ 4)
    (hclear : v.toNat % 2 ^ (32 - 8 * n) = 0) :
    decodeGroup mode st ((encodeSyms v).take (n + 1)) = .done ((bytesOf v).take n) st := by
  have hok : ∀ c ∈ (encodeSyms v).take (n + 1), (rev c).ok = true :=
    fun c hc => rev_ok_of_mem_encodeSyms (List.mem_of_mem_take hc)
  have hlen : ((encodeSyms v).take (n + 1)).length - 1 = n := by
    rw [List.length_take, encodeSyms_length]
    omega
  obtain ⟨hle, hdiv⟩ := groupFold_encodeSyms_div hn hclear
  have ht : (BitVec.ofNat 33 (groupFold ((encodeSyms v).take (n + 1)))).toNat =
      groupFold ((encodeSyms v).take (n + 1)) := Nat.mod_eq_of_lt (by omega)
  rw [decodeGroup_eq_resolvedResult mode st hok ht, resolve_of_le mode st (ht.trans_le hle), resolvedResult, hlen]
  refine congrArg (FrameResult.done · st) (bytesOf_take_congr hn ?_)
  rw [BitVec.toNat_setWidth, ht, Nat.mod_eq_of_lt (by omega), hdiv]

/-! ## The round trip -/

theorem bytesOf_chunkOf_take {held : List Byte} (h : held.length ≤ 4) :
    (bytesOf (chunkOf held)).take held.length = held := by
  rw [chunkOf, bytesOf_be32]
  match held, h with
  | [], _ | [_], _ | [_, _], _ | [_, _, _], _ | [_, _, _, _], _ => rfl

/-- The tail of a text decodes to the bytes of its chunk (42_decoder.md R95, R99). -/
theorem decodeGroups_encodeBytes_tail (mode : OvfMode) (st : Status) {held : List Byte} (hne : held ≠ [])
    (hlt : held.length < 4) : decodeGroups mode st (encodeBytes held) = .done held st := by
  have hlen : held.length ≠ 0 := fun h => hne (List.length_eq_zero_iff.1 h)
  have hsyms : encodeBytes held = (encodeSyms (chunkOf held)).take (held.length + 1) := by
    rw [encodeBytes_of_length_lt hlt, if_neg hlen]
  have hsymlen : (encodeBytes held).length = held.length + 1 := by
    rw [hsyms, List.length_take, encodeSyms_length]
    omega
  rw [decodeGroups_of_length_le mode st (List.ne_nil_of_length_eq_add_one hsymlen) (by omega), hsyms,
    decodeGroup_encodeSyms_take mode st hlt.le (chunkOf_clear hlt), bytesOf_chunkOf_take hlt.le]

/-- The groups of an encoding decode to its bytes under the status they started with (42_decoder.md R99). -/
theorem decodeGroups_encodeBytes (mode : OvfMode) (st : Status) (bytes : List Byte) :
    decodeGroups mode st (encodeBytes bytes) = .done bytes st := by
  induction bytes using encodeBytes.induct with
  | case1 => rfl
  | case2 | case3 | case4 => exact decodeGroups_encodeBytes_tail mode st (by simp) (by simp)
  | case5 b0 b1 b2 b3 rest ih =>
    have hgroup : decodeGroup mode st (encodeSyms (be32 b0 b1 b2 b3)) = .done [b0, b1, b2, b3] st := by
      rw [← bytesOf_be32 b0 b1 b2 b3]
      exact decodeGroup_encodeSyms_take mode st (n := 4) (by norm_num) (Nat.mod_one _)
    rw [encodeBytes, decodeGroups_append mode st (encodeSyms_length _), hgroup, FrameResult.andThen, ih]
    rfl

/-- Encode writes no space (42_decoder.md R86). -/
theorem filter_encodeBytes (bytes : List Byte) :
    (encodeBytes bytes).filter (fun c => c != 0x20#8) = encodeBytes bytes := by
  refine List.filter_eq_self.2 fun c hc => bne_iff_ne.2 ?_
  rintro rfl
  exact absurd (rev_ok_of_mem_encodeBytes hc) (by decide)

end Sys2Proof.Machine
end

section
/-! PROOFS. The statements of 42_decoder.md on Decode and on the decoder's input beats. -/

namespace Sys2Proof.Proofs.Decoder

open Sys2Proof.Machine

/-- Settles O30: every beat is taken, so the words are the stream of the frame's beats, and that stream gives Decode's
result. -/
theorem decoderFrameIsDecode : Obligations.DecoderFrameIsDecode := by
  intro text s hl hidle hroom
  have ⟨_, hcnt, _⟩ := hidle
  have hroom' : DecRoom (symbolCount text) s := by simpa [DecRoom, symbolCount, hcnt] using hroom
  obtain ⟨t, hx, htaken, hidle', henc, hpar, hret⟩ := execAll_decFrame text hl hroom'
  have hwords := Memory.decoderWordsDependOnTakenBeatsOnly _ s t hl hidle (not_mem_rst_decFrameInstrs text) hx
  obtain ⟨data, st, hstream, hresult⟩ := decStream_decFrame s.cfg.ovfMode text (held := []) .ok (by decide)
  rw [htaken, hstream] at hwords
  refine ⟨t, data, st, hx, ?_, (decodeBytes_eq_decodeOpen _ text).trans hresult, hidle', henc, hpar, hret⟩
  rw [dec_q_of_decSequence hret hwords, List.append_assoc]

/-- Settles O32, along the chunks of the list: the padding of a tail never reaches the bytes it returns. -/
theorem decodeOfEncodeIsIdentity : Obligations.DecodeOfEncodeIsIdentity := by
  intro mode bytes
  rw [decodeBytes, filter_encodeBytes, decodeGroups_encodeBytes]

/-- Settles O25, by the failure, the open group and the three results of the fifth fold. -/
theorem decDataInTheNormalState : Obligations.DecDataInTheNormalState := by
  intro c s hl hr _ hst v words
  have ⟨_, hinv⟩ := hl
  have hv : (foldStep s.dec_acc (rev c).val).toNat = v := foldStep_of_inv hinv _
  refine ⟨_, exec_decInput_taken rfl hl ((decInReady_iff_free s).2 hr), decDataEffect_frame c s, ?_⟩
  rw [opEffect]
  cases hc : (rev c).ok with
  | false =>
    rw [if_pos rfl, decDataEffect_invalid hst hc]
    exact ⟨rfl, rfl, rfl, rfl⟩
  | true =>
    rw [if_neg Bool.true_eq_false_eq_False]
    by_cases hk : s.dec_cnt.val < 4
    · rw [if_pos hk, decDataEffect_fold hst hc hk]
      exact ⟨rfl, foldStep_setWidth_toNat hinv c hk, Fin.val_add_one_of_lt' (by omega), rfl⟩
    · rw [if_neg hk, decDataEffect_group hst hc (by have := s.dec_cnt.isLt; omega)]
      have hwords : (bytesOf ((foldStep s.dec_acc (rev c).val).setWidth 32)).map dataW = words := by
        rw [bytesOf_setWidth, hv, List.map_map]
        rfl
      rw [completeGroup_eq, hv, hwords]
      split_ifs <;> exact ⟨rfl, rfl, rfl, rfl⟩

/-- Settles O27: a tail's words are the first bytes of its padded fold, which is exact within R26. -/
theorem decEndEmitsTailAndStatus : Obligations.DecEndEmitsTailAndStatus := by
  intro r s hl hr k v words
  have ⟨_, hinv⟩ := hl
  have hk : k - 1 ≤ 3 := by have := s.dec_cnt.isLt; omega
  have hv : (foldPadded s.dec_acc (5 - k)).toNat = v := foldPadded_of_inv hinv
  have hwords : ((bytesOf ((foldPadded s.dec_acc (5 - k)).setWidth 32)).take (k - 1)).map dataW = words := by
    rw [bytesOf_setWidth_take _ hk, hv, List.map_map]
    rfl
  refine ⟨_, exec_decInput_taken rfl hl ((decInReady_iff_free s).2 hr), decEndEffect_frame s, ⟨rfl, rfl, rfl⟩, ?_⟩
  rw [← hv, ← hwords, ← tailWords_eq rfl]
  simp only [k, Fin.val_eq_zero_iff]
  rfl

/-- Settles O28: both are the closed form in natural numbers. -/
theorem paddedTailIsFoldOf84 : Obligations.PaddedTailIsFoldOf84 := by
  intro acc k hk hacc
  rw [foldPadded_toNat hk hacc, foldl_replicate_84]

/-- Settles O29, by whether four slots are free. -/
theorem decoderInputWaitsForRoom : Obligations.DecoderInputWaitsForRoom := by
  intro i s hi hl
  constructor
  · intro hfree
    exact exec_decInput_waits hi hl ((decInReady_iff_free s).not.2 (by omega))
  · intro hfree
    have hlen := opEffect_dec_q_length hi s
    refine ⟨_, exec_decInput_taken hi hl ((decInReady_iff_free s).2 hfree), opEffect_taken i s, hlen, ?_⟩
    rw [State.retire_dec_q, State.retire_cfg, opEffect_cfg]
    omega

/-- Settles O34: 83 * 85^4 alone exceeds 2^32 - 1. -/
theorem highFirstSymbolOverflows : Obligations.HighFirstSymbolOverflows := by
  intro c0 c1 c2 c3 c4 h
  rw [groupFold_five]
  omega

/-- Settles O24: the effect is the identity. -/
theorem decSpaceChangesNothing : Obligations.DecSpaceChangesNothing := by
  intro s hl hr
  exact ⟨_, exec_decInput_taken rfl hl ((decInReady_iff_free s).2 hr), ⟨rfl, rfl, rfl, rfl⟩,
    opEffect_decBeatFrame rfl s⟩

/-- Settles O26: in drain the effect is the identity, whatever the byte. -/
theorem drainIgnoresSymbols : Obligations.DrainIgnoresSymbols := by
  intro c s hl hr _ hst
  refine ⟨_, exec_decInput_taken rfl hl ((decInReady_iff_free s).2 hr), ?_, decDataEffect_frame c s⟩
  rw [opEffect, decDataEffect_drain c hst]
  exact ⟨rfl, rfl, rfl, rfl⟩

/-- Settles O33: stripping the two texts gives the same symbols. -/
theorem spacesDoNotChangeDecode : Obligations.SpacesDoNotChangeDecode := by
  intro mode t u
  have hstrip : (t ++ 0x20#8 :: u).filter (fun c => c != 0x20#8) = (t ++ u).filter (fun c => c != 0x20#8) := by
    rw [List.filter_append, List.filter_cons_of_neg (by decide), List.filter_append]
  rw [decodeBytes, hstrip, decodeBytes]

end Sys2Proof.Proofs.Decoder
end

section
/-! SUPPORT. The output handshakes (spec 43_stream_control.md R102, R103): a pop in a live state, a pop beside an input
beat of its channel, and what a popped word adds to the consumer's readings (R108). -/

namespace Sys2Proof.Machine

/-! ## A pop in a live state -/

theorem exec_encPop_word {w : OutWord} {q : List OutWord} {s : State} (hl : s.Live) (hq : s.enc_q = w :: q)
    (hw : encWordLegal w = true) : exec .encPop s = .next (s.dropEnc.give (.encWord w)).retire := by
  have hlegal : popLegal .encPop s := fun _ => by rwa [encOutWord, hq]
  have hready : opReady .encPop s = true := by simp [opReady, encOutValid, hq]
  rw [(exec_eq_next_iff rfl).2 ⟨hl, hlegal, rfl⟩, opNext_of_ready hready, opEffect, encOutWord, hq, List.headD_cons]

theorem exec_encPop_empty {s : State} (hl : s.Live) (hq : s.enc_q = []) : exec .encPop s = .next s.pass := by
  have hwait : ¬ opReady .encPop s = true := by simp [opReady, encOutValid, hq]
  have hlegal : popLegal .encPop s := fun h => absurd h hwait
  rw [(exec_eq_next_iff rfl).2 ⟨hl, hlegal, rfl⟩, opNext_of_not_ready hwait]

theorem exec_decPop_word {w : OutWord} {q : List OutWord} {s : State} (hl : s.Live) (hq : s.dec_q = w :: q)
    (hw : decWordLegal s.cfg.ovfMode w = true) : exec .decPop s = .next (s.dropDec.give (.decWord w)).retire := by
  have hlegal : popLegal .decPop s := fun _ => by rwa [decOutWord, hq]
  have hready : opReady .decPop s = true := by simp [opReady, decOutValid, hq]
  rw [(exec_eq_next_iff rfl).2 ⟨hl, hlegal, rfl⟩, opNext_of_ready hready, opEffect, decOutWord, hq, List.headD_cons]

theorem exec_decPop_empty {s : State} (hl : s.Live) (hq : s.dec_q = []) : exec .decPop s = .next s.pass := by
  have hwait : ¬ opReady .decPop s = true := by simp [opReady, decOutValid, hq]
  have hlegal : popLegal .decPop s := fun h => absurd h hwait
  rw [(exec_eq_next_iff rfl).2 ⟨hl, hlegal, rfl⟩, opNext_of_not_ready hwait]

/-! ## A pop and an input beat of its channel -/

/-- The state with another encoder queue and another host's side, that of `h`. -/
def State.withEncQueue (s : State) (q : List OutWord) (h : State) : State :=
  { s with enc_q := q, agents := h.agents, turn := h.turn, returned := h.returned }

/-- The state with another decoder queue and another host's side, that of `h`. -/
def State.withDecQueue (s : State) (q : List OutWord) (h : State) : State :=
  { s with dec_q := q, agents := h.agents, turn := h.turn, returned := h.returned }

/-- An input beat of the encoder appends the same words whatever is queued, and looks at nothing of the host's side
(41_encoder.md R75, R76). -/
theorem opEffect_withEncQueue {i : Instr} (hi : isEncInput i = true) (s : State) :
    ∃ ws, ∀ q h, opEffect i (s.withEncQueue q h) = (opEffect i s).withEncQueue (q ++ ws) h := by
  cases i with
  | encData d =>
    by_cases hcnt : s.enc_cnt.val < 3
    · have hopen : encDataEffect d s = _ := if_pos hcnt
      refine ⟨[], fun q h => ?_⟩
      rw [opEffect, opEffect, hopen, List.append_nil]
      exact if_pos hcnt
    · have hfull : encDataEffect d s = _ := if_neg hcnt
      refine ⟨(encodeSyms (placeByte s.enc_v s.enc_cnt.val d)).map dataW, fun q h => ?_⟩
      rw [opEffect, opEffect, hfull]
      exact if_neg hcnt
  | encEnd r => exact ⟨encTail s ++ [endW .ok], fun _ _ => rfl⟩
  | decSpace | decData _ | decEnd _ | lutFwd _ | lutRev _ | encPop | decPop | rst => cases hi

theorem completeGroup_withDecQueue (t : Fold) (s : State) :
    ∃ ws, ∀ q h, completeGroup t (s.withDecQueue q h) = (completeGroup t s).withDecQueue (q ++ ws) h := by
  cases hres : resolve s.cfg.ovfMode s.dec_st t with
  | overflow =>
    refine ⟨[], fun q h => ?_⟩
    simp only [completeGroup, State.withDecQueue, hres, List.append_nil]
    rfl
  | emit g st =>
    refine ⟨(bytesOf g).map dataW, fun q h => ?_⟩
    simp only [completeGroup, State.withDecQueue, hres]
    rfl

/-- An input beat of the decoder appends the same words whatever is queued, and looks at nothing of the host's side
(42_decoder.md R89 to R92). -/
theorem opEffect_withDecQueue {i : Instr} (hi : isDecInput i = true) (s : State) :
    ∃ ws, ∀ q h, opEffect i (s.withDecQueue q h) = (opEffect i s).withDecQueue (q ++ ws) h := by
  cases i with
  | decSpace => exact ⟨[], fun q h => by rw [List.append_nil]; rfl⟩
  | decEnd r =>
    exact ⟨if s.dec_st.failed = true ∨ s.dec_cnt = 0 then [endW s.dec_st] else tailWords s, fun _ _ => rfl⟩
  | decData c =>
    cases hst : s.dec_st.failed with
    | true =>
      refine ⟨[], fun q h => ?_⟩
      rw [opEffect, opEffect, decDataEffect_drain c hst, List.append_nil]
      exact decDataEffect_drain c hst
    | false =>
      cases hc : (rev c).ok with
      | false =>
        refine ⟨[], fun q h => ?_⟩
        rw [opEffect, opEffect, decDataEffect_invalid hst hc, List.append_nil]
        exact decDataEffect_invalid hst hc
      | true =>
        by_cases hk : s.dec_cnt.val < 4
        · refine ⟨[], fun q h => ?_⟩
          rw [opEffect, opEffect, decDataEffect_fold hst hc hk, List.append_nil]
          exact decDataEffect_fold hst hc hk
        · have hfull : s.dec_cnt.val = 4 := by have := s.dec_cnt.isLt; omega
          obtain ⟨ws, happ⟩ := completeGroup_withDecQueue (foldStep s.dec_acc (rev c).val) s
          refine ⟨ws, fun q h => ?_⟩
          rw [opEffect, opEffect, decDataEffect_group hst hc hfull, ← happ]
          exact decDataEffect_group hst hc hfull
  | encData _ | encEnd _ | lutFwd _ | lutRev _ | encPop | decPop | rst => cases hi

/-- The beat appends at the tail of the queue and the pop takes its head (41_encoder.md R83). -/
theorem opEffect_encPop_comm {i : Instr} (hi : isEncInput i = true) {s : State} (hq : s.enc_q ≠ []) :
    (opEffect .encPop (opEffect i s).retire).retire = (opEffect i (opEffect .encPop s).retire).retire := by
  obtain ⟨w, q, hwq⟩ := List.exists_cons_of_ne_nil hq
  obtain ⟨ws, happ⟩ := opEffect_withEncQueue hi s
  have hfirst : opEffect i s = (opEffect i s).withEncQueue (w :: q ++ ws) s := hwq ▸ happ s.enc_q s
  have hsecond : opEffect i (opEffect .encPop s).retire = _ := happ s.enc_q.tail (opEffect .encPop s).retire
  rw [hfirst, hsecond, hwq]
  simp only [opEffect, encOutWord, hwq]
  rfl

theorem opEffect_decPop_comm {i : Instr} (hi : isDecInput i = true) {s : State} (hq : s.dec_q ≠ []) :
    (opEffect .decPop (opEffect i s).retire).retire = (opEffect i (opEffect .decPop s).retire).retire := by
  obtain ⟨w, q, hwq⟩ := List.exists_cons_of_ne_nil hq
  obtain ⟨ws, happ⟩ := opEffect_withDecQueue hi s
  have hfirst : opEffect i s = (opEffect i s).withDecQueue (w :: q ++ ws) s := hwq ▸ happ s.dec_q s
  have hsecond : opEffect i (opEffect .decPop s).retire = _ := happ s.dec_q.tail (opEffect .decPop s).retire
  rw [hfirst, hsecond, hwq]
  simp only [opEffect, decOutWord, hwq]
  rfl

/-- An input beat and a pop, both ready in a safe state and still ready after the other, end in the same state in either
order if their effects commute. -/
theorem execAll_pair_comm {i j : Instr} {s : State} (hs : s.Safe) (hi : opReady i s = true) (hj : opReady j s = true)
    (hij : opReady j (opEffect i s).retire = true) (hji : opReady i (opEffect j s).retire = true)
    (hcomm : (opEffect j (opEffect i s).retire).retire = (opEffect i (opEffect j s).retire).retire) :
    ∃ t, execAll [i, j] s = .next t ∧ execAll [j, i] s = .next t := by
  have hfst : exec i s = .next (opEffect i s).retire := by rw [exec_of_safe i hs, opNext_of_ready hi]
  have hsnd : exec j s = .next (opEffect j s).retire := by rw [exec_of_safe j hs, opNext_of_ready hj]
  have hsi : (opEffect i s).retire.Safe := opNext_of_ready hi ▸ opNext_safe i hs
  have hsj : (opEffect j s).retire.Safe := opNext_of_ready hj ▸ opNext_safe j hs
  refine ⟨(opEffect j (opEffect i s).retire).retire, ?_, ?_⟩
  · rw [execAll_cons_of_next _ hfst, execAll_cons_of_next _ (exec_of_safe j hsi), opNext_of_ready hij, execAll]
  · rw [execAll_cons_of_next _ hsnd, execAll_cons_of_next _ (exec_of_safe i hsj), opNext_of_ready hji, execAll, hcomm]

/-! ## What a popped word adds to the consumer's readings -/

/-- A DATA word joins the open frame; an END word completes it with the bytes before it (43_stream_control.md R108). -/
theorem frameReadings_word (es : List ChannelEvent) (w : OutWord) :
    if outKind w = true then
      frameResults [] (es ++ [.word w]) =
        frameResults [] es ++ [frameResult (openBytes [] es) (Status.ofCode (outStatus w))] ∧
      openBytes [] (es ++ [.word w]) = []
    else
      frameResults [] (es ++ [.word w]) = frameResults [] es ∧
      openBytes [] (es ++ [.word w]) = openBytes [] es ++ [outData w] := by
  rw [frameResults_append, openBytes_append]
  split <;> simp [frameResults, openBytes, *]

/-- A reset completes no frame and drops the open one (70_reset_and_hazards.md R126). -/
theorem frameReadings_cut (es : List ChannelEvent) :
    frameResults [] (es ++ [.cut]) = frameResults [] es ∧ openBytes [] (es ++ [.cut]) = [] := by
  rw [frameResults_append, openBytes_append]
  simp [frameResults, openBytes]

end Sys2Proof.Machine
end

section
/-! PROOFS. The statements of 43_stream_control.md on the output handshakes and on the frames they complete. -/

namespace Sys2Proof.Proofs.StreamControl

open Sys2Proof.Machine

/-- Settles O36: the pop of a live state takes the head, or waits. -/
theorem encPopTakesTheHead : Obligations.EncPopTakesTheHead := by
  intro w q s hl
  refine ⟨fun hq hw => ?_, exec_encPop_empty hl⟩
  exact ⟨_, exec_encPop_word hl hq hw, congrArg List.tail hq, rfl, rfl, rfl, ⟨rfl, rfl, rfl, rfl⟩, ⟨rfl, rfl⟩, rfl, rfl⟩

/-- Settles O37: the pop of a live state takes the head, or waits. -/
theorem decPopTakesTheHead : Obligations.DecPopTakesTheHead := by
  intro w q s hl
  refine ⟨fun hq hw => ?_, exec_decPop_empty hl⟩
  exact ⟨_, exec_decPop_word hl hq hw, congrArg List.tail hq, rfl, rfl, rfl, rfl, ⟨rfl, rfl, rfl⟩, ⟨rfl, rfl⟩, rfl, rfl⟩

/-- Settles O39: the beat leaves the head where it is, and the pop only makes room. -/
theorem sameEdgeBeatAndPopCommute : Obligations.SameEdgeBeatAndPopCommute := by
  intro i s hs
  constructor
  · intro hi hq hroom
    have hvalid : encOutValid s = true := by simpa [encOutValid] using hq
    have hbeat : opReady i s = true := (opReady_of_isEncInput hi s).trans ((encInReady_iff_free s).2 hroom)
    refine execAll_pair_comm hs hbeat hvalid ?_ ?_ (opEffect_encPop_comm hi hq)
    · obtain ⟨hpop, -, hrst⟩ := not_pop_not_rst_of_input (i := i) (by rw [hi, Bool.true_or])
      obtain ⟨hheld, -⟩ := opNext_encHeadHeld hpop hrst s hvalid
      exact opNext_of_ready hbeat ▸ hheld
    · have hlen : (opEffect .encPop s).retire.enc_q.length ≤ s.enc_q.length := List.tail_sublist _ |>.length_le
      rw [opReady_of_isEncInput hi, encInReady_iff_free]
      exact hroom.trans (Nat.sub_le_sub_left hlen _)
  · intro hi hq hroom
    have hvalid : decOutValid s = true := by simpa [decOutValid] using hq
    have hbeat : opReady i s = true := (opReady_of_isDecInput hi s).trans ((decInReady_iff_free s).2 hroom)
    refine execAll_pair_comm hs hbeat hvalid ?_ ?_ (opEffect_decPop_comm hi hq)
    · obtain ⟨-, hpop, hrst⟩ := not_pop_not_rst_of_input (i := i) (by rw [hi, Bool.or_true])
      obtain ⟨hheld, -⟩ := opNext_decHeadHeld hpop hrst s hvalid
      exact opNext_of_ready hbeat ▸ hheld
    · have hlen : (opEffect .decPop s).retire.dec_q.length ≤ s.dec_q.length := List.tail_sublist _ |>.length_le
      rw [opReady_of_isDecInput hi, decInReady_iff_free]
      exact hroom.trans (Nat.sub_le_sub_left hlen _)

/-- Settles O41: what the host got back grows by the popped word, or by the reset's mark. -/
theorem framesCompleteAtTheirEndWord : Obligations.FramesCompleteAtTheirEndWord := by
  intro s
  refine ⟨fun t h hne => ?_, fun t h hne => ?_, fun t h => ?_⟩
  · obtain ⟨-, -, ⟨w, q, hq, -, rfl⟩ | ⟨hempty, -⟩⟩ := execEncPop_next h
    · have hword : encOutWord s = w := by rw [encOutWord, hq, List.headD_cons]
      simp only [hword, encResults, encOpenBytes, State.retire_returned, State.give_returned, State.dropEnc_returned,
        List.filterMap_append]
      exact frameReadings_word _ w
    · exact absurd hempty hne
  · obtain ⟨-, -, ⟨w, q, hq, -, rfl⟩ | ⟨hempty, -⟩⟩ := execDecPop_next h
    · have hword : decOutWord s = w := by rw [decOutWord, hq, List.headD_cons]
      simp only [hword, decResults, decOpenBytes, State.retire_returned, State.give_returned, State.dropDec_returned,
        List.filterMap_append]
      exact frameReadings_word _ w
    · exact absurd hempty hne
  · cases h
    simp only [encResults, decResults, encOpenBytes, decOpenBytes, State.retire_returned, State.give_returned,
      State.resetRegs_returned, List.filterMap_append]
    obtain ⟨hencResults, hencOpen⟩ := frameReadings_cut (s.returned.filterMap encEvent)
    obtain ⟨hdecResults, hdecOpen⟩ := frameReadings_cut (s.returned.filterMap decEvent)
    exact ⟨hencResults, hdecResults, hencOpen, hdecOpen⟩

end Sys2Proof.Proofs.StreamControl
end

section
/-! SUPPORT. The frames a channel's offers start against the END words of its channel, and a run of programs (spec
43_stream_control.md R108). -/

namespace Sys2Proof.Machine

/-! ## Counting the frames started, offer by offer -/

/-- The frames of a channel after some offers: how many END beats since the last reset, and whether a frame is open. -/
structure FrameCount where
  ends : Nat
  isOpen : Bool

/-- The count after one more offer taken. -/
def FrameCount.next (word : Offer → Option InWord) (f : FrameCount) (o : Offer) : FrameCount :=
  if o = .rst then ⟨0, false⟩
  else match word o with
    | some w => if inKind w = true then ⟨f.ends + 1, false⟩ else ⟨f.ends, true⟩
    | none => f

/-- The frames started: those with their END beat, and the open one. -/
def FrameCount.started (f : FrameCount) : Nat := if f.isOpen = true then f.ends + 1 else f.ends

theorem startedFrames_eq_foldl (word : Offer → Option InWord) (f : FrameCount) (os : List Offer) :
    startedFrames word f.ends f.isOpen os = (os.foldl (FrameCount.next word) f).started := by
  induction os generalizing f with
  | nil => rfl
  | cons o os ih =>
    rw [List.foldl_cons, ← ih, startedFrames, FrameCount.next]
    split
    · rfl
    · cases word o with
      | none => rfl
      | some w => dsimp only; split <;> rfl

theorem completeFrames_map_dataW (ds : List Byte) : completeFrames (ds.map dataW) = 0 := by
  simp [completeFrames]

theorem completeFrames_endW (st : Status) : completeFrames [endW st] = 1 := by
  simp [completeFrames]

/-! ## A channel whose END beats and END words keep step -/

/-- How a channel's operations move its word sequence: an END beat adds DATA words and one END word and leaves the
channel idle, any other beat adds DATA words, a reset leaves nothing, and no other operation matters (41_encoder.md R75,
R76, 42_decoder.md R89 to R95, 70_reset_and_hazards.md R122). -/
structure EndsItsFrames (word : Offer → Option InWord) (words : State → List OutWord) (Idle : State → Prop) :
    Prop where
  host : ∀ s agents turn, words { s with agents := agents, turn := turn } = words s ∧
    (Idle s → Idle { s with agents := agents, turn := turn })
  rst : ∀ s, words (opEffect .rst s) = [] ∧ Idle (opEffect .rst s)
  end_beat : ∀ {o w}, word o = some w → inKind w = true → ∀ s, Idle (opEffect (decode o) s) ∧
    ∃ (ds : List Byte) (st : Status), words (opEffect (decode o) s) = words s ++ (ds.map dataW ++ [endW st])
  data_beat : ∀ {o w}, word o = some w → inKind w = false → ∀ s,
    ∃ ds : List Byte, words (opEffect (decode o) s) = words s ++ ds.map dataW
  other : ∀ {o}, word o = none → o ≠ .rst → ∀ {s}, opReady (decode o) s = true →
    words (opEffect (decode o) s) = words s ∧ (Idle s → Idle (opEffect (decode o) s))

/-- The frames counted from the offers taken are those of the channel: every END beat has its END word, and while no
frame is open the channel is idle and its last word, if it has one, is an END word. -/
structure FramesTracked (words : State → List OutWord) (Idle : State → Prop) (f : FrameCount) (s : State) : Prop where
  ends : f.ends = completeFrames (words s)
  idle : f.isOpen = false → Idle s
  last : f.isOpen = false → ∀ w ∈ (words s).getLast?, outKind w = true

section Channel

variable {word : Offer → Option InWord} {words : State → List OutWord} {Idle : State → Prop} {f : FrameCount}

/-- The agents' lists and the turn are not looked at. -/
theorem EndsItsFrames.tracked_host (C : EndsItsFrames word words Idle) {s : State} (h : FramesTracked words Idle f s)
    (agents : List (List Offer)) (turn : List Nat) :
    FramesTracked words Idle f { s with agents := agents, turn := turn } := by
  obtain ⟨hwords, hidle⟩ := C.host s agents turn
  exact ⟨hwords ▸ h.ends, fun ho => hidle (h.idle ho), hwords ▸ h.last⟩

/-- An operation taken counts as its offer does. -/
theorem EndsItsFrames.tracked_effect (C : EndsItsFrames word words Idle) {s : State} (h : FramesTracked words Idle f s)
    {o : Offer} (hr : opReady (decode o) s = true) :
    FramesTracked words Idle (f.next word o) (opEffect (decode o) s) := by
  by_cases hrst : o = .rst
  · obtain ⟨hwords, hidle⟩ := C.rst s
    subst hrst
    exact ⟨by rw [decode, hwords]; rfl, fun _ => hidle, fun _ => by rw [decode, hwords]; nofun⟩
  · rw [FrameCount.next, if_neg hrst]
    cases hw : word o with
    | none =>
      obtain ⟨hwords, hidle⟩ := C.other hw hrst hr
      exact ⟨by rw [hwords, h.ends], fun ho => hidle (h.idle ho), by rw [hwords]; exact h.last⟩
    | some w =>
      dsimp only
      cases hk : inKind w with
      | true =>
        obtain ⟨hidle, ds, st, hwords⟩ := C.end_beat hw hk s
        refine ⟨?_, fun _ => hidle, fun _ => ?_⟩
        · simp [hwords, completeFrames_append, completeFrames_map_dataW, completeFrames_endW, h.ends]
        · simp [hwords]
      | false =>
        obtain ⟨ds, hwords⟩ := C.data_beat hw hk s
        refine ⟨?_, nofun, nofun⟩
        simp [hwords, completeFrames_append, completeFrames_map_dataW, h.ends]

end Channel

/-- Where as many frames are complete as were started, no word is queued: the last word queued would be the END word of
a frame that is not complete. -/
theorem FramesTracked.nothing_left {words : State → List OutWord} {Idle : State → Prop} {f : FrameCount} {s : State}
    (h : FramesTracked words Idle f s) {popped queued : List OutWord} (hw : words s = popped ++ queued)
    (hall : f.started = completeFrames popped) : queued = [] ∧ Idle s := by
  have hends := h.ends
  rw [hw, completeFrames_append] at hends
  have hopen : f.isOpen = false := by
    cases ho : f.isOpen with
    | false => rfl
    | true => rw [FrameCount.started, if_pos ho] at hall; omega
  rw [FrameCount.started, if_neg (by simp [hopen])] at hall
  refine ⟨?_, h.idle hopen⟩
  by_contra hne
  have hlast := h.last hopen
  rw [hw, List.getLast?_append_of_ne_nil _ hne, List.getLast?_eq_some_getLast hne] at hlast
  have hmem : queued.getLast hne ∈ queued.filter outKind :=
    List.mem_filter.2 ⟨List.getLast_mem hne, hlast _ rfl⟩
  have hpos : 0 < completeFrames queued := List.length_pos_of_mem hmem
  omega

/-! ## The two channels -/

/-- An operation that is not of the encoder and no RST gives the encoder's consumer nothing. -/
theorem encEvents_opEffect {i : Instr} (hi : onEnc i = false) (hrst : i ≠ .rst) (s : State) :
    (opEffect i s).returned.filterMap encEvent = s.returned.filterMap encEvent := by
  cases i with
  | encData _ | encEnd _ | encPop => cases hi
  | rst => exact absurd rfl hrst
  | lutFwd _ | lutRev _ | decPop => simp [opEffect, List.filterMap_cons, encEvent]
  | decSpace | decData _ | decEnd _ => rw [opEffect_returned_of_input rfl]

theorem decEvents_opEffect {i : Instr} (hi : onDec i = false) (hrst : i ≠ .rst) (s : State) :
    (opEffect i s).returned.filterMap decEvent = s.returned.filterMap decEvent := by
  cases i with
  | decSpace | decData _ | decEnd _ | decPop => cases hi
  | rst => exact absurd rfl hrst
  | lutFwd _ | lutRev _ | encPop => simp [opEffect, List.filterMap_cons, decEvent]
  | encData _ | encEnd _ => rw [opEffect_returned_of_input rfl]

/-- An operation that is no input beat of the encoder and no RST leaves the word sequence and an idle encoder. -/
theorem opEffect_encSequence_of_not_input {i : Instr} (hi : isEncInput i = false) (hrst : i ≠ .rst) {s : State}
    (hr : opReady i s = true) :
    encSequence (opEffect i s) = encSequence s ∧ (s.EncIdle → (opEffect i s).EncIdle) := by
  cases hon : onEnc i with
  | false =>
    obtain ⟨hv, hc, hq⟩ := opEffect_sameEnc hon hrst s
    rw [encSequence, encSequence, encEvents_opEffect hon hrst, hq]
    exact ⟨rfl, fun ⟨iv, ic⟩ => ⟨hv.trans iv, hc.trans ic⟩⟩
  | true =>
    cases i with
    | encPop => exact ⟨encSequence_pop s (by simpa [opReady, encOutValid] using hr), id⟩
    | encData _ | encEnd _ => cases hi
    | decSpace | decData _ | decEnd _ | lutFwd _ | lutRev _ | decPop | rst => cases hon

theorem opEffect_decSequence_of_not_input {i : Instr} (hi : isDecInput i = false) (hrst : i ≠ .rst) {s : State}
    (hr : opReady i s = true) :
    decSequence (opEffect i s) = decSequence s ∧ (s.DecIdle → (opEffect i s).DecIdle) := by
  cases hon : onDec i with
  | false =>
    obtain ⟨ha, hc, hst, hq⟩ := opEffect_sameDec hon hrst s
    rw [decSequence, decSequence, decEvents_opEffect hon hrst, hq]
    exact ⟨rfl, fun ⟨ia, ic, ist⟩ => ⟨ha.trans ia, hc.trans ic, hst.trans ist⟩⟩
  | true =>
    cases i with
    | decPop => exact ⟨decSequence_pop s (by simpa [opReady, decOutValid] using hr), id⟩
    | decSpace | decData _ | decEnd _ => cases hi
    | encData _ | encEnd _ | lutFwd _ | lutRev _ | encPop | rst => cases hon

theorem isEncInput_decode (o : Offer) : isEncInput (decode o) = (encInWord o).isSome := by
  cases o with
  | encIn w => exact isEncInput_decode_encIn w
  | decIn w =>
    rw [decode, decodeDecIn]
    split
    · rfl
    · split <;> rfl
  | lutFwdIdx _ | lutRevSym _ | encOut | decOut | rst => rfl

theorem isDecInput_decode (o : Offer) : isDecInput (decode o) = (decInWord o).isSome := by
  cases o with
  | decIn w => exact isDecInput_decode_decIn w
  | encIn w =>
    rw [decode, decodeEncIn]
    split <;> rfl
  | lutFwdIdx _ | lutRevSym _ | encOut | decOut | rst => rfl

theorem decode_ne_rst {o : Offer} (h : o ≠ .rst) : decode o ≠ .rst := by
  obtain ⟨-, henc⟩ := wf_decode_and_encode_decode o
  intro hrst
  rw [hrst] at henc
  exact h henc.symm

theorem eq_encIn_of_encInWord {o : Offer} {w : InWord} (h : encInWord o = some w) : o = .encIn w := by
  cases o with
  | encIn _ => rw [Option.some.inj h]
  | decIn _ | lutFwdIdx _ | lutRevSym _ | encOut | decOut | rst => cases h

theorem eq_decIn_of_decInWord {o : Offer} {w : InWord} (h : decInWord o = some w) : o = .decIn w := by
  cases o with
  | decIn _ => rw [Option.some.inj h]
  | encIn _ | lutFwdIdx _ | lutRevSym _ | encOut | decOut | rst => cases h

/-- The tail's symbols are DATA words (41_encoder.md R76). -/
theorem encTail_eq_map_dataW (s : State) : ∃ ds : List Byte, encTail s = ds.map dataW := by
  unfold encTail
  split
  · exact ⟨[], rfl⟩
  · exact ⟨_, rfl⟩

/-- DEC.END queues DATA words and one END word (42_decoder.md R92, R95). -/
theorem decEndWords_eq (s : State) : ∃ (ds : List Byte) (st : Status),
    (if s.dec_st.failed = true ∨ s.dec_cnt = 0 then [endW s.dec_st] else tailWords s) = ds.map dataW ++ [endW st] := by
  split
  · exact ⟨[], _, rfl⟩
  · rcases tailWords_cases s with ⟨h, -⟩ | ⟨st, h, -⟩
    · exact ⟨[], _, h⟩
    · exact ⟨_, _, h⟩

/-- A frame of the encoder ends with its END word (41_encoder.md R75, R76). -/
theorem encEndsItsFrames : EndsItsFrames encInWord encSequence State.EncIdle where
  host _ _ _ := ⟨rfl, id⟩
  rst s := ⟨by simp [encSequence, opEffect, encEvent, wordsSinceCut_cut], rfl, rfl⟩
  end_beat {o w} ho hk s := by
    obtain ⟨ds, hds⟩ := encTail_eq_map_dataW s
    rw [eq_encIn_of_encInWord ho, decode, decodeEncIn, if_pos hk]
    exact ⟨⟨rfl, rfl⟩, ds, .ok, encSequence_append (s := s) (t := encEndEffect s) rfl (by rw [← hds]; rfl)⟩
  data_beat {o w} ho hk s := by
    obtain ⟨-, -, hret, -⟩ := encDataEffect_frame (inData w) s
    rw [eq_encIn_of_encInWord ho, decode, decodeEncIn, if_neg (by simp [hk]), opEffect]
    rcases encDataEffect_cases (inData w) s with ⟨-, heq⟩ | ⟨-, heq⟩
    · exact ⟨[], encSequence_append (t := encDataEffect (inData w) s) hret (by rw [heq]; simp)⟩
    · exact ⟨_, encSequence_append (t := encDataEffect (inData w) s) hret (by rw [heq]; rfl)⟩
  other {o} ho hrst {s} hr :=
    opEffect_encSequence_of_not_input (by rw [isEncInput_decode, ho]; rfl) (decode_ne_rst hrst) hr

/-- A frame of the decoder ends with its END word, whatever its status (42_decoder.md R89 to R95). -/
theorem decEndsItsFrames : EndsItsFrames decInWord decSequence State.DecIdle where
  host _ _ _ := ⟨rfl, id⟩
  rst s := ⟨by simp [decSequence, opEffect, decEvent, wordsSinceCut_cut], rfl, rfl, rfl⟩
  end_beat {o w} ho hk s := by
    obtain ⟨ds, st, hds⟩ := decEndWords_eq s
    rw [eq_decIn_of_decInWord ho, decode, decodeDecIn, if_pos hk]
    exact ⟨⟨rfl, rfl, rfl⟩, ds, st, decSequence_append (s := s) (t := decEndEffect s) rfl (by rw [← hds]; rfl)⟩
  data_beat {o w} ho hk s := by
    rw [eq_decIn_of_decInWord ho, decode, decodeDecIn, if_neg (by simp [hk])]
    split
    · exact ⟨[], (List.append_nil _).symm⟩
    · obtain ⟨-, -, hret, -⟩ := decDataEffect_frame (inData w) s
      rcases decDataEffect_queue_cases (inData w) s with ⟨hq, -⟩ | ⟨-, -, g, hq⟩
      · exact ⟨[], decSequence_append (t := decDataEffect (inData w) s) hret (hq.trans (List.append_nil _).symm)⟩
      · exact ⟨_, decSequence_append (t := decDataEffect (inData w) s) hret hq⟩
  other {o} ho hrst {s} hr :=
    opEffect_decSequence_of_not_input (by rw [isDecInput_decode, ho]; rfl) (decode_ne_rst hrst) hr

/-! ## A run's step -/

/-- No agent of a run has more than one offer on its port (30_encoding.md R65: each action blocks). -/
def OneOfferEach (agents : List (List Offer)) : Prop := ∀ l ∈ agents, l.length ≤ 1

theorem oneOfferEach_nil : OneOfferEach [] := nofun

theorem oneOfferEach_cons {a : List Offer} {as : List (List Offer)} :
    OneOfferEach (a :: as) ↔ a.length ≤ 1 ∧ OneOfferEach as := List.forall_mem_cons

/-- An offer is put for an agent that has none. -/
theorem OneOfferEach.put {agents : List (List Offer)} (h : OneOfferEach agents) {n : Nat}
    (hn : offerOf agents n = none) (o : Offer) : OneOfferEach (putOffer o n agents) := by
  induction n generalizing agents with
  | zero =>
    cases agents with
    | nil => exact oneOfferEach_cons.2 ⟨le_rfl, oneOfferEach_nil⟩
    | cons a as =>
      have ha : a = [] := List.head?_eq_none_iff.1 hn
      exact oneOfferEach_cons.2 ⟨by simp [ha], (oneOfferEach_cons.1 h).2⟩
  | succ n ih =>
    cases agents with
    | nil => exact oneOfferEach_cons.2 ⟨Nat.zero_le _, ih oneOfferEach_nil rfl⟩
    | cons a as =>
      obtain ⟨ha, has⟩ := oneOfferEach_cons.1 h
      exact oneOfferEach_cons.2 ⟨ha, ih has hn⟩

theorem OneOfferEach.modify_tail {agents : List (List Offer)} (h : OneOfferEach agents) (n : Nat) :
    OneOfferEach (agents.modify n List.tail) := by
  induction agents generalizing n with
  | nil => cases n <;> exact oneOfferEach_nil
  | cons a as ih =>
    obtain ⟨ha, has⟩ := oneOfferEach_cons.1 h
    cases n with
    | zero => exact oneOfferEach_cons.2 ⟨by simp; omega, has⟩
    | succ n => exact oneOfferEach_cons.2 ⟨ha, ih has n⟩

/-- The one offer of an agent is all it has on its port. -/
theorem OneOfferEach.getElem?_eq {agents : List (List Offer)} (h : OneOfferEach agents) {n : Nat} {o : Offer}
    (ho : offerOf agents n = some o) : agents[n]? = some [o] := by
  obtain ⟨os, hos⟩ := offerOf_eq_some_iff.1 ho
  have hlen := h _ (List.mem_of_getElem? hos)
  cases os with
  | nil => exact hos
  | cons _ _ => simp at hlen

theorem ProgramRun.Offers.of_nextOffer {r : ProgramRun} (h : OneOfferEach r.state.agents) {o : Offer}
    (hn : r.nextOffer r.state.actor = some o) : r.Offers o := by
  cases ho : offerOf r.state.agents r.state.actor with
  | some o' =>
    have heq : o' = o := Option.some.inj ((ProgramRun.nextOffer_of_offer ho).symm.trans hn)
    exact heq ▸ .of_waiting (h.getElem?_eq ho)
  | none =>
    refine ⟨hn, ?_⟩
    have hempty : r.state.agents.getD r.state.actor [] = [] := List.head?_eq_none_iff.1 ho
    rw [ProgramRun.offered, ho, hn]
    exact (getElem?_putOffer _ _ _).trans (by rw [hempty])

theorem ProgramRun.offered_oneOfferEach {r : ProgramRun} (h : OneOfferEach r.state.agents) :
    OneOfferEach r.offered.agents := by
  unfold ProgramRun.offered
  split
  · next ho _ => exact h.put ho _
  · exact h

/-- Everything a step of a run does to the machine and to the offers taken: the moving agent's offer is taken, or
nothing but the ports and the turn is changed. -/
theorem runStep_cases {r r' : ProgramRun} (hone : OneOfferEach r.state.agents) (h : runStep r = .next r') :
    (∃ o, opReady (decode o) r.offered = true ∧ r'.state = (opEffect (decode o) r.offered).retire ∧
      r'.taken = r.taken ++ [o]) ∨
    (r'.state = r.offered.pass ∧ r'.taken = r.taken) := by
  obtain ⟨t, hstep, rfl⟩ := runStep_next h
  cases hn : r.nextOffer r.state.actor with
  | none =>
    have hf : fetch r.offered = none := by rw [r.fetch_offered, hn]; rfl
    rcases step_next hstep with ⟨i, hi, -⟩ | ⟨-, rfl⟩
    · rw [hf] at hi; cases hi
    · refine .inr ⟨r.advance_state _, ?_⟩
      rw [ProgramRun.advance, hn]
  | some o =>
    have ho := ProgramRun.Offers.of_nextOffer hone hn
    have hport : r.offered.agents[r.offered.actor]? = some [o] := r.offered_actor ▸ ho.alone
    rw [step_of_offer (offerOf_of_getElem? hport)] at hstep
    obtain ⟨-, rfl⟩ := exec_next hstep
    by_cases hr : opReady (decode o) r.offered = true
    · rw [opNext_of_ready hr]
      refine .inl ⟨o, hr, r.advance_state _, ?_⟩
      have hempty := r.offered_actor ▸ offerOf_taken hport (decode o)
      rw [ProgramRun.advance, hn, hempty]
    · rw [opNext_of_not_ready hr]
      refine .inr ⟨r.advance_state _, ?_⟩
      rw [ProgramRun.advance, hn, State.pass_agents, offerOf_of_getElem? ho.alone]

/-- What every step of a run keeps, the run keeps. -/
theorem runSteps_keeps {P : ProgramRun → Prop} (hstep : ∀ {r r'}, P r → runStep r = .next r' → P r') {k : Nat}
    {r r' : ProgramRun} (h : P r) (hk : runSteps k r = .next r') : P r' := by
  induction k generalizing r with
  | zero => cases hk; exact h
  | succ k ih =>
    unfold runSteps at hk
    split at hk
    · exact ih (hstep h ‹_›) hk
    · cases hk
    · cases hk

/-! ## A run's frames -/

/-- What every run from reset keeps: one offer at most on each agent's port, and both channels' frames counted. -/
structure ProgramRun.Tracked (r : ProgramRun) : Prop where
  ports : OneOfferEach r.state.agents
  enc : FramesTracked encSequence State.EncIdle (r.taken.foldl (FrameCount.next encInWord) ⟨0, false⟩) r.state
  dec : FramesTracked decSequence State.DecIdle (r.taken.foldl (FrameCount.next decInWord) ⟨0, false⟩) r.state

theorem ProgramRun.start_tracked (cfg : Config) (turn : List Nat) (programs : List (List Action)) :
    (ProgramRun.start cfg turn programs).Tracked where
  ports := oneOfferEach_nil
  enc := ⟨rfl, fun _ => ⟨rfl, rfl⟩, fun _ => nofun⟩
  dec := ⟨rfl, fun _ => ⟨rfl, rfl, rfl⟩, fun _ => nofun⟩

/-- A channel's frames stay counted through a step of a run. -/
theorem EndsItsFrames.tracked_runStep {word : Offer → Option InWord} {words : State → List OutWord}
    {Idle : State → Prop} (C : EndsItsFrames word words Idle) {r r' : ProgramRun} (hone : OneOfferEach r.state.agents)
    (h : FramesTracked words Idle (r.taken.foldl (FrameCount.next word) ⟨0, false⟩) r.state)
    (hstep : runStep r = .next r') :
    FramesTracked words Idle (r'.taken.foldl (FrameCount.next word) ⟨0, false⟩) r'.state := by
  have hoffered := C.tracked_host h r.offered.agents r.state.turn
  rw [show { r.state with agents := r.offered.agents, turn := r.state.turn } = r.offered from r.offered_eq.symm]
    at hoffered
  rcases runStep_cases hone hstep with ⟨o, hr, hstate, htaken⟩ | ⟨hstate, htaken⟩
  · rw [hstate, htaken, List.foldl_append]
    exact C.tracked_host (C.tracked_effect hoffered hr) _ _
  · rw [hstate, htaken]
    exact C.tracked_host hoffered _ _

theorem ProgramRun.Tracked.runStep {r r' : ProgramRun} (h : r.Tracked) (hstep : runStep r = .next r') :
    r'.Tracked where
  ports := by
    have hoffered := ProgramRun.offered_oneOfferEach h.ports
    rcases runStep_cases h.ports hstep with ⟨o, -, hstate, -⟩ | ⟨hstate, -⟩ <;> rw [hstate]
    · obtain ⟨hagents, -⟩ := opEffect_taken (decode o) r.offered
      rw [hagents]
      exact hoffered.modify_tail _
    · exact hoffered
  enc := encEndsItsFrames.tracked_runStep h.ports h.enc hstep
  dec := decEndsItsFrames.tracked_runStep h.ports h.dec hstep

/-- Where every frame started is complete, both channels are empty and idle (43_stream_control.md R108). -/
theorem ProgramRun.Tracked.nothing_left {r : ProgramRun} (h : r.Tracked) (hall : r.framesComplete = true) :
    r.state.enc_q = [] ∧ r.state.EncIdle ∧ r.state.dec_q = [] ∧ r.state.DecIdle := by
  rw [ProgramRun.framesComplete, Bool.and_eq_true, beq_iff_eq, beq_iff_eq] at hall
  obtain ⟨henc, hdec⟩ := hall
  obtain ⟨hencq, hencIdle⟩ := h.enc.nothing_left rfl ((startedFrames_eq_foldl _ ⟨0, false⟩ _).symm.trans henc)
  obtain ⟨hdecq, hdecIdle⟩ := h.dec.nothing_left rfl ((startedFrames_eq_foldl _ ⟨0, false⟩ _).symm.trans hdec)
  exact ⟨hencq, hencIdle, hdecq, hdecIdle⟩

theorem ProgramRun.ended_iff (r : ProgramRun) :
    r.ended = true ↔ r.framesComplete = true ∧ ∀ p ∈ r.programs, p = [] := by
  simp only [ProgramRun.ended, Bool.and_eq_true, List.all_eq_true, List.isEmpty_iff]

end Sys2Proof.Machine
end

section
/-! PROOFS. The statement of 43_stream_control.md on the end of a run of programs. -/

namespace Sys2Proof.Proofs.StreamControl

open Sys2Proof.Machine

/-- Settles O59: every run from reset keeps its frames counted, step by step. -/
theorem endedRunLeavesNothing : Obligations.EndedRunLeavesNothing := by
  intro k cfg turn programs r hk
  have htracked : r.Tracked :=
    runSteps_keeps (fun h hstep => h.runStep hstep) (ProgramRun.start_tracked cfg turn programs) hk
  exact ⟨r.ended_iff, htracked.nothing_left⟩

end Sys2Proof.Proofs.StreamControl
end

section
/-! SUPPORT. What a decoder failure does (spec 60_exceptions.md R110 to R116), what a reset edge is (R113) and what a
state outside 10_state.md R26 answers (R121). -/

namespace Sys2Proof.Machine

/-! ## The decoder's beats and its failures -/

/-- A symbol either keeps the status or, in the normal state only, sets it for one of three causes: it is invalid, or
it is a valid fifth symbol whose group overflows, in FAIL or in WRAP (60_exceptions.md R110). -/
theorem decDataEffect_dec_st_cases (c : Byte) (s : State) :
    (decDataEffect c s).dec_st = s.dec_st ∨
    (s.dec_st.failed = false ∧
      (((decDataEffect c s).dec_st = .invalidSymbol ∧ (rev c).ok = false) ∨
       ((decDataEffect c s).dec_st = .overflow ∧ (rev c).ok = true ∧ s.dec_cnt.val = 4 ∧ s.cfg.ovfMode = .fail) ∨
       ((decDataEffect c s).dec_st = .okWrapped ∧ (rev c).ok = true ∧ s.dec_cnt.val = 4 ∧ s.cfg.ovfMode = .wrap))) := by
  cases hst : s.dec_st.failed with
  | true => exact .inl (by rw [decDataEffect_drain c hst])
  | false =>
    cases hc : (rev c).ok with
    | false => exact .inr ⟨rfl, .inl ⟨by rw [decDataEffect_invalid hst hc]; rfl, rfl⟩⟩
    | true =>
      by_cases hk : s.dec_cnt.val < 4
      · exact .inl (by rw [decDataEffect_fold hst hc hk]; rfl)
      · have hk4 : s.dec_cnt.val = 4 := by have := s.dec_cnt.isLt; omega
        rw [decDataEffect_group hst hc hk4]
        rcases completeGroup_cases (foldStep s.dec_acc (rev c).val) s with
          ⟨heq, hfail⟩ | ⟨st, heq, rfl | ⟨rfl, hwrap⟩⟩ <;> rw [heq]
        · exact .inr ⟨rfl, .inr (.inl ⟨rfl, rfl, hk4, hfail⟩)⟩
        · exact .inl rfl
        · exact .inr ⟨rfl, .inr (.inr ⟨rfl, rfl, hk4, hwrap⟩)⟩

/-- DEC.END of a failed frame emits its verdict alone (60_exceptions.md R114, R116). -/
theorem decEndEffect_drain {s : State} (h : s.dec_st.failed = true) :
    decEndEffect s = endFrame (s.emitDec [endW s.dec_st]) := by
  rw [decEndEffect, if_pos (.inl h)]

/-! ## The edge of a reset -/

/-- A reset wins its edge: no handshake of the other pins takes place (60_exceptions.md R113, 70_reset_and_hazards.md
R122). -/
theorem edge_of_rst {p : PinInputs} (h : p.rst = true) (s : State) : edge p s = exec .rst s := by
  rw [edge, edgeOffers, if_pos h]
  rfl

/-! ## States outside R26 -/

/-- Every beat and pop is guarded by R26 (60_exceptions.md R121; log entry 10). -/
theorem exec_of_broken {i : Instr} (hi : (onEnc i || onDec i) = true) {s : State} (hseen : s.rstSeen = true)
    (hinv : ¬ s.Inv) : exec i s = .fault .brokenInvariant := by
  cases i with
  | encData _ | encEnd _ | decSpace | decData _ | decEnd _ | encPop | decPop => exact guarded_broken _ hseen hinv
  | lutFwd _ | lutRev _ | rst => cases hi

end Sys2Proof.Machine
end

section
/-! PROOFS. The statements of 60_exceptions.md: the decoder's failures, reset and broken states. -/

namespace Sys2Proof.Proofs.Exceptions

open Sys2Proof.Machine

/-- Settles O53: only a completed handshake writes the status, and only RST, DEC.END and DEC.DATA have it to write. -/
theorem statusChangesOnlyAsTabled : Obligations.StatusChangesOnlyAsTabled := by
  intro i s t h hne
  obtain ⟨-, rfl⟩ := exec_next h
  have hr : opReady i s = true := by
    by_contra hr
    exact hne (by rw [opNext_of_not_ready hr]; rfl)
  rw [opNext_of_ready hr, State.retire_dec_st] at hne ⊢
  by_cases hrst : i = .rst
  · subst hrst
    exact .inl ⟨rfl, rfl⟩
  cases i with
  | decEnd r => exact .inr (.inl ⟨r, rfl, rfl⟩)
  | decData c => exact .inr (.inr ⟨c, rfl, (decDataEffect_dec_st_cases c s).resolve_left hne⟩)
  | decSpace | decPop => exact absurd rfl hne
  | encData _ | encEnd _ | lutFwd _ | lutRev _ | encPop =>
    obtain ⟨-, -, hst, -⟩ := opEffect_sameDec rfl hrst s
    exact absurd hst hne
  | rst => exact absurd rfl hrst

/-- Settles O54: symbols are drained, and DEC.END has the verdict alone to emit. -/
theorem failedFrameEmitsItsVerdictOnly : Obligations.FailedFrameEmitsItsVerdictOnly := by
  intro i s t h hfail hrst hpop
  obtain ⟨-, rfl⟩ := exec_next h
  by_cases hr : opReady i s = true
  · rw [opNext_of_ready hr]
    cases i with
    | decEnd r =>
      rw [opEffect, decEndEffect_drain hfail]
      exact .inr ⟨r, rfl, rfl, rfl, rfl, rfl⟩
    | decData c =>
      rw [opEffect, decDataEffect_drain c hfail]
      exact .inl ⟨rfl, rfl⟩
    | decSpace => exact .inl ⟨rfl, rfl⟩
    | encData _ | encEnd _ | lutFwd _ | lutRev _ | encPop =>
      obtain ⟨-, -, hst, hq⟩ := opEffect_sameDec rfl hrst s
      exact .inl ⟨hq, hst⟩
    | decPop => exact absurd rfl hpop
    | rst => exact absurd rfl hrst
  · rw [opNext_of_not_ready hr]
    exact .inl ⟨rfl, rfl⟩

/-- Settles O42: RST has no guard, and its edge has no other operation. -/
theorem rstGivesTheResetState : Obligations.RstGivesTheResetState := by
  intro s
  have hreset : exec .rst s = .next (s.resetRegs.give .reset).retire := rfl
  exact ⟨⟨_, hreset, rfl, rfl, rfl, rfl, rfl, rfl, rfl, rfl, rfl, rfl, rfl, rfl⟩, rfl, rfl,
    fun _ hp => edge_of_rst hp s⟩

/-- Settles O46: every operation of a channel is guarded by R26. -/
theorem brokenStatesFault : Obligations.BrokenStatesFault :=
  fun _ _ hseen hinv hi => exec_of_broken hi hseen hinv

end Sys2Proof.Proofs.Exceptions
end

section
/-! SUPPORT. What a machine that has seen no reset answers (spec 60_exceptions.md R121, 70_reset_and_hazards.md R124),
what an operation queues (R135) and the chaining of an encoder frame to the decoder (R132). -/

namespace Sys2Proof.Machine

/-! ## Before the first reset -/

/-- Every beat and pop is guarded by the mark of a seen reset (60_exceptions.md R121; log entry 4). -/
theorem exec_preReset {i : Instr} (hi : (onEnc i || onDec i) = true) {s : State} (hseen : s.rstSeen = false) :
    exec i s = .fault .preReset := by
  cases i with
  | encData _ | encEnd _ | decSpace | decData _ | decEnd _ | encPop | decPop => exact guarded_preReset _ hseen
  | lutFwd _ | lutRev _ | rst => cases hi

/-- Beats and pops one after another stop at the first of them, if there is one. -/
theorem execAll_preReset {is : List Instr} (his : ∀ i ∈ is, (onEnc i || onDec i) = true) {s : State}
    (hseen : s.rstSeen = false) : execAll is s = if is = [] then .next s else .fault .preReset := by
  cases is with
  | nil => rfl
  | cons i is =>
    rw [execAll, exec_preReset (his i List.mem_cons_self) hseen, if_neg (List.cons_ne_nil i is)]

/-- Before the first reset a driven port is a handshake (log entry 4). -/
theorem handshake_preReset {s : State} (hseen : s.rstSeen = false) (driven answered : Bool) :
    handshake s driven answered = driven := by
  simp [handshake, hseen]

theorem beatIf_eq_nil {taken : Bool} {o : Offer} : beatIf taken o = [] ↔ taken = false := by
  cases taken <;> simp [beatIf]

theorem eq_of_mem_beatIf {taken : Bool} {o o' : Offer} (h : o' ∈ beatIf taken o) : o' = o := by
  cases taken with
  | true => exact List.mem_singleton.1 h
  | false => cases h

/-- Without `rst` an edge makes operations of the two channels only (43_stream_control.md R102). -/
theorem on_channel_of_mem_edgeOffers {p : PinInputs} (hrst : p.rst = false) {s : State} {o : Offer}
    (h : o ∈ edgeOffers p s) : (onEnc (decode o) || onDec (decode o)) = true := by
  rw [edgeOffers, if_neg (Bool.eq_false_iff.1 hrst)] at h
  simp only [List.mem_append] at h
  rcases h with ((h | h) | h) | h <;> rw [eq_of_mem_beatIf h]
  · exact on_channel_of_input (by rw [isEncInput_decode_encIn, Bool.true_or])
  · rfl
  · exact on_channel_of_input (by rw [isDecInput_decode_decIn, Bool.or_true])
  · rfl

/-- Before the first reset an edge without `rst` makes no operation where no stream port is driven, and only there
(log entry 4). -/
theorem edgeOffers_preReset_eq_nil {p : PinInputs} (hrst : p.rst = false) {s : State} (hseen : s.rstSeen = false) :
    edgeOffers p s = [] ↔ p.drivesStream = false := by
  rw [edgeOffers, if_neg (Bool.eq_false_iff.1 hrst)]
  simp only [handshake_preReset hseen, List.append_eq_nil_iff, beatIf_eq_nil, PinInputs.drivesStream,
    Bool.or_eq_false_iff]

/-- An edge before the first reset (70_reset_and_hazards.md R124; log entry 4). -/
theorem edge_preReset {p : PinInputs} (hrst : p.rst = false) {s : State} (hseen : s.rstSeen = false) :
    edge p s = if p.drivesStream = true then .fault .preReset else .next s := by
  have hchannel : ∀ i ∈ (edgeOffers p s).map decode, (onEnc i || onDec i) = true :=
    List.forall_mem_map.2 fun _ ho => on_channel_of_mem_edgeOffers hrst ho
  rw [edge, execAll_preReset hchannel hseen]
  simp only [List.map_eq_nil_iff, edgeOffers_preReset_eq_nil hrst hseen]
  cases p.drivesStream <;> rfl

/-! ## The words an operation queues -/

/-- An operation that completes or waits appends at most five encoder words (70_reset_and_hazards.md R135). -/
theorem opNext_enc_q {i : Instr} (hpop : i ≠ .encPop) (hrst : i ≠ .rst) (s : State) :
    ∃ ws, (opNext i s).enc_q = s.enc_q ++ ws ∧ ws.length ≤ 5 := by
  by_cases hr : opReady i s = true
  · obtain ⟨ws, hq, hlen, -⟩ := opEffect_enc_q hpop hrst s
    exact ⟨ws, by rw [opNext_of_ready hr, State.retire_enc_q, hq], hlen⟩
  · exact ⟨[], by rw [opNext_of_not_ready hr, State.pass_enc_q, List.append_nil], Nat.zero_le _⟩

/-- An operation that completes or waits appends at most four decoder words (70_reset_and_hazards.md R135). -/
theorem opNext_dec_q {i : Instr} (hpop : i ≠ .decPop) (hrst : i ≠ .rst) (s : State) :
    ∃ ws, (opNext i s).dec_q = s.dec_q ++ ws ∧ ws.length ≤ 4 := by
  by_cases hr : opReady i s = true
  · obtain ⟨ws, hq, hlen, -⟩ := opEffect_dec_q hpop hrst s
    exact ⟨ws, by rw [opNext_of_ready hr, State.retire_dec_q, hq], hlen⟩
  · exact ⟨[], by rw [opNext_of_not_ready hr, State.pass_dec_q, List.append_nil], Nat.zero_le _⟩

/-! ## Chaining an encoder frame -/

/-- A chained DATA word is the decoder's beat of its symbol (70_reset_and_hazards.md R132). -/
theorem decode_chainWord_dataW (c : Byte) : decode (.decIn (chainWord (dataW c))) = decFrameBeat c := by
  rw [chainWord, outKind_dataW, outData_dataW, if_neg Bool.false_ne_true, ← encode_decFrameBeat,
    decode_encode (decFrameBeat_wf c)]

/-- A chained END word is the decoder's END beat, whatever its status (70_reset_and_hazards.md R132). -/
theorem decode_chainWord_endW (st : Status) : decode (.decIn (chainWord (endW st))) = .decEnd 0 := by
  rw [chainWord, if_pos (outKind_endW st), decode, decodeDecIn_end]

/-- The words of an encoder frame, chained, are the beats of the decoder frame of its symbols (70_reset_and_hazards.md
R132). -/
theorem map_decode_chainWord (text : List Byte) (st : Status) :
    (text.map dataW ++ [endW st]).map (fun w => decode (.decIn (chainWord w))) = decFrameInstrs text := by
  simp [decFrameInstrs, decode_chainWord_dataW, decode_chainWord_endW]

/-- A frame read as a success has its bytes and its status (43_stream_control.md R108). -/
theorem eq_of_frameResult_eq_done {data bytes : List Byte} {st st' : Status}
    (h : frameResult data st = .done bytes st') : data = bytes ∧ st = st' := by
  unfold frameResult at h
  split at h
  · cases h
  · exact FrameResult.done.inj h

end Sys2Proof.Machine
end

section
/-! PROOFS. The statements of 70_reset_and_hazards.md: before the first reset, chained frames, the words queued. -/

namespace Sys2Proof.Proofs.ResetAndHazards

open Sys2Proof.Machine

/-- Settles O35: the chained words are a decoder frame's beats, its words are Decode's result, and that is the bytes. -/
theorem chainedFrameGoesRoundTrip : Obligations.ChainedFrameGoesRoundTrip := by
  intro bytes s hl hidle hroom
  rw [← filter_encodeBytes bytes] at hroom
  obtain ⟨t, data, st, hx, hq, hresult, hidle', henc, hpar, -⟩ :=
    Decoder.decoderFrameIsDecode (encodeBytes bytes) s hl hidle hroom
  rw [Decoder.decodeOfEncodeIsIdentity] at hresult
  obtain ⟨rfl, rfl⟩ := eq_of_frameResult_eq_done hresult.symm
  exact ⟨t, by rw [map_decode_chainWord, hx], hq, hidle', henc, hpar⟩

/-- Settles O56, by whether the operation completes or waits. -/
theorem beatsAppendBoundedWords : Obligations.BeatsAppendBoundedWords := by
  intro i s t h hrst
  obtain ⟨-, rfl⟩ := exec_next h
  exact ⟨fun hpop => opNext_enc_q hpop hrst s, fun hpop => opNext_dec_q hpop hrst s⟩

/-- Settles O45: the guard comes before everything else an operation of a channel does. -/
theorem noBeatBeforeTheFirstReset : Obligations.NoBeatBeforeTheFirstReset := by
  intro i s hseen
  have hpins : ∀ rst, streamOutputs rst s = none := fun _ => if_neg (Bool.eq_false_iff.1 hseen)
  exact ⟨fun hi => exec_preReset hi hseen, hpins, fun _ hrst => edge_preReset hrst hseen⟩

end Sys2Proof.Proofs.ResetAndHazards
end
